-- ==== Sys2Proof/Word.lean ====
section
/-! DEFINITION. The plainest words of the model: a byte of the roof line, a moment of the model's clock. -/

namespace Sys2Proof

/-- One byte of a roof line frame (R154). -/
abbrev Byte := BitVec 8

/-- A moment of the model's clock, and a duration: whole microseconds (entry 1). -/
abbrev Time := Nat

/-- A timer that is stopped or over (`none`), or running up to its deadline (`some`). -/
abbrev Timer := Option Time

end Sys2Proof
end

