-- ==== Sys2Proof/Syntax.lean ====
section
/-! DEFINITION. The commands of the part: one constructor of `Instr` per row of spec/opcode_table.json, with the
operands the row's rule needs (the table gives none of its own). -/

namespace Sys2Proof

/-- The pantographs of a station (spec/00_scope.md 5, "Names"). -/
inductive Panto where
  | p1 | p2
  deriving DecidableEq, Repr

/-- The cab ends. -/
inductive CabEnd where
  | a | b
  deriving DecidableEq, Repr

/-- The heater loads (R123). -/
inductive Load where
  | insulator
  | head (p : Panto)
  deriving DecidableEq, Repr

/-- What a lockout cell holds (R23). -/
inductive CellValue where
  | locked | clear | unreadable
  deriving DecidableEq, Repr

/-- The strap pins as read (R171): the values of the pin groups, not yet given a meaning. -/
structure StrapPins where
  address   : BitVec 4
  carIndex  : BitVec 5
  head1     : BitVec 2
  head2     : BitVec 2
  rear1     : Bool
  rear2     : Bool
  insulator : BitVec 2
  heads     : BitVec 2
  deriving DecidableEq, Repr

/-- Every strap pin reading 0. -/
def StrapPins.zero : StrapPins :=
  { address := 0, carIndex := 0, head1 := 0, head2 := 0, rear1 := false, rear2 := false, insulator := 0, heads := 0 }

/-- The input levels that stand at the release of the power-on reset (10.9): rest switches, selector end switches,
breaker feedback, heater feedback. -/
structure InputLevels where
  rest1     : Bool
  rest2     : Bool
  endAC     : Bool
  endDC     : Bool
  breaker   : Bool
  insulator : Bool
  head1     : Bool
  head2     : Bool
  deriving DecidableEq, Repr

/-- A reading of the temperature and humidity link (R117). -/
inductive Reading where
  | temperature (tenths : Int)
  | humidity (percent : Int)
  deriving DecidableEq, Repr

/-- How the reception of a discarded frame ended (R155, R157). -/
inductive Ending where
  /-- the frame was read to its end by its own length byte -/
  | whole
  /-- where a start bit was due the line read the idle level -/
  | brokenOff
  /-- a stop bit read the driven level -/
  | stopDriven
  deriving DecidableEq, Repr

/-- The commands. `t` is the moment of a thing that comes from outside; the expiry of a timer has none, since the
timer holds its own moment (entry 1). An attempt begins `bits` bit times after `t`, the unit in which R162 counts (entry 14).
A frame is given as its raw bytes, kind first and CRC last (R159). -/
inductive Instr where
  | powerOn (t : Time) (pins : StrapPins) (levels : InputLevels)
  | legalTransition (t : Time) (p : Panto) (up : Bool)
  | illegalTransition (t : Time) (p : Panto)
  | encoderQuietExpiry (p : Panto)
  | stillnessSpanEnd (p : Panto)
  | restSwitchClosure (t : Time) (p : Panto)
  | restSwitchOpening (t : Time) (p : Panto)
  | wireLossInterval (p : Panto)
  | pressureValue (t : Time) (p : Panto) (v : Option Nat)
  | referenceTargetExpiry (p : Panto)
  | autoDrop (p : Panto)
  | raiseTimeout (p : Panto)
  | breakerWaitExpiry (p : Panto)
  | lowerTimerExpiry (p : Panto)
  | dropTimerExpiry (p : Panto)
  | cellWriteComplete (t : Time) (p : Panto) (readBack : CellValue)
  | unlockEnableExpiry
  | lineSample (t : Time) (v : Option Int)
  | gateEnd
  | statusRecord (t : Time) (frame : List Byte)
  | duplicateRecord (t : Time) (frame : List Byte)
  | entryStale (address : Nat)
  | entryRemoval (address : Nat)
  | duplicateExpiry
  | consistRecord (t : Time) (frame : List Byte)
  | slotExpiry (e : CabEnd)
  | noCabStale
  | noCabLost
  | windowExpiry
  | bidTimeout
  | holdoffExpiry
  | heatedTimeReached
  | preheatTimeout
  | transitTimeout
  | retargetPauseEnd
  | endSwitchChange (t : Time) (acClosed dcClosed : Bool)
  | breakerFeedbackChange (t : Time) (closed : Bool)
  | breakerDisagreeExpiry
  | currentSample (t : Time) (p : Panto) (v : Option Nat)
  | assessmentExpiry
  | weatherReading (t : Time) (r : Reading)
  | pwmPeriodExpiry (l : Load)
  | pwmOnPartEnd (l : Load)
  | heaterFeedbackChange (t : Time) (l : Load) (current : Bool)
  | heaterDisagreeExpiry (l : Load)
  | ackCause (t : Time) (frame : List Byte)
  | isolate (t : Time) (frame : List Byte)
  | restore (t : Time) (frame : List Byte)
  | unlockEnable (t : Time) (frame : List Byte)
  | unlock (t : Time) (frame : List Byte)
  | clearArcs (t : Time) (frame : List Byte)
  | restart (t : Time) (frame : List Byte)
  | cadenceExpiry
  | spacingExpiry
  | attemptStart (t : Time) (bits : Nat)
  | collision (t : Time) (bit : Nat)
  | success (t : Time)
  | lineActiveTimeout (t : Time)
  | lineIdle (t : Time)
  | listenExpiry
  | adoptTimeout
  | powerOnResetAsserted (t : Time)
  | frameDiscarded (t : Time) (frame : List Byte) (ending : Ending)
  deriving DecidableEq, Repr

end Sys2Proof
end

