-- ==== Sys2Proof/Config.lean ====
section
/-! DEFINITION. The figures the part fixes (durations, thresholds), and the one free value. -/

namespace Sys2Proof.Config

/-- One millisecond on the model's clock. -/
abbrev ms : Time := 1000

/-- One second on the model's clock. -/
abbrev second : Time := 1000000

/-- The duration of one bit on the roof line (R154). -/
abbrev bitTime : Time := 2

/-- The free value of entry 10: whether a lockout cell whose write was abandoned by power-on is unreadable afterwards
(`true`) or holds its old value (`false`). R23 leaves this open; nothing in the model can tell which. The argument is
the number of free values used before. -/
opaque tornCell : Nat → Bool

/-- Bound on the messages one command may send inside the station (entry 6). -/
def settleBound : Nat := 4096

/-! Pantograph drive (chapter 1) -/

def restThreshold : Nat := 40
def upperStop : Nat := 3800
def angleMax : Nat := 4095
def stillSpan : Time := 200 * ms
def stillCounts : Nat := 8
def wireLossMargin : Nat := 48
def wireLossTime : Time := 100 * ms
def raiseTime : Time := 8 * second
def breakerWaitTime : Time := 200 * ms
def lowerNormalTime : Time := 10 * second
def lowerFastTime : Time := 4 * second
def dropTime : Time := 4 * second
def dropIntervalTime : Time := 100 * ms
def dropMargin : Nat := 120
def referenceSpan : Time := 1 * second
def quietTime : Time := 10 * second
def encoderSpan : Time := 1 * second
def unlockTime : Time := 10 * second
def boostPressure : Nat := 60
def targetLow : Nat := 250
def targetHigh : Nat := 550

/-- The ramp of R8, 400 kPa per second, is one kPa in this many microseconds. -/
def rampStep : Time := 2500

/-! Line sense unit (chapter 2) -/

def gateSamples : Nat := 480
def sampleLimit : Nat := 600
def hysteresis : Int := 3
def crossingMax : Nat := 63
def runMax : Nat := 255
def unknownRunFault : Nat := 4

/-- The line has been dead for at least 2 s from this many consecutive DEAD gates of 240 ms (R39). -/
def deadGates : Nat := 9

/-! Peer view (chapter 3) -/

def staleAge : Time := 100 * ms
def removalAge : Time := 2 * second
def duplicateTime : Time := 2 * second
def slotAge : Time := 200 * ms
def noCabStaleTime : Time := 200 * ms
def noCabLostTime : Time := 2 * second
def speedMax : Nat := 400
def positionMax : Nat := 1023

/-! Raise admission (chapter 4) -/

def windowTime : Time := 60 * ms
def bidTime : Time := 2 * second
def holdoffTime : Time := 1 * second
def spacingMax : Nat := 400

/-! Changeover (chapter 5) -/

def transitTime : Time := 3 * second
def pauseTime : Time := 200 * ms
def disagreeTime : Time := 500 * ms

/-! Arc monitoring (chapter 6) -/

def meanSamples : Nat := 400
def currentMax : Nat := 4095
def watchMean : Nat := 20
def arcShortest : Nat := 4
def arcLong : Nat := 80
def arcLost : Nat := 2001
def burstSum : Nat := 20
def assessTime : Time := 1 * second

/-! Ice and heating (chapter 7) -/

def indexMax : Nat := 1048575
def peerClaimMax : Nat := 250
def pwmPeriod : Time := 10 * second
def pwmPerCent : Time := 100 * ms
def feedbackTime : Time := 2 * second

/-! Roof line (chapter 9) -/

def cadenceTime : Time := 20 * ms
def spacingTime : Time := 5 * ms
def idleBitsFirst : Nat := 48
def idleBitsPerAddress : Nat := 16
def attemptLimit : Nat := 8
def abandonFault : Nat := 3
def activeLimit : Time := 2 * ms

/-! Start-up (chapter 10) -/

def listenTime : Time := 1 * second
def adoptTime : Time := 5 * second

end Sys2Proof.Config
end

