-- ==== Sys2Proof/Machine/Vocabulary.lean ====
section
/-! DEFINITION. The names of the part's states, phases, causes, kinds and outcomes, and the records that travel on the
roof line, as named fields. -/

namespace Sys2Proof.Machine

/-- The four line systems (spec/00_scope.md 5). -/
inductive System where
  | ac25 | ac15 | dc3 | dc1k5
  deriving DecidableEq, Repr

/-- The line classes: the four systems, and DEAD, UNKNOWN, OVER. Gate results use the same names (R33). -/
inductive LineClass where
  | dead
  | sys (x : System)
  | unknown
  | over
  deriving DecidableEq, Repr

inductive HeadKind where
  | none | ac | dc
  deriving DecidableEq, Repr

/-- The announced states of a pantograph; the falling flag is part of the name (R2). -/
inductive PState where
  | down | bidding | preheat | rising | contact | fallingNormal | fallingFast | dropped
  deriving DecidableEq, Repr

/-- The outcome of a pantograph (R27). -/
inductive POutcome where
  | none | raised | notAdmitted | yielded | withheld | noWire | stall | dropped | lowered | protect
  deriving DecidableEq, Repr

inductive Polarity where
  | pos | neg | none
  deriving DecidableEq, Repr

inductive Demand where
  | lower | raise | prepare
  deriving DecidableEq, Repr

inductive Direction where
  | aLeading | bLeading
  deriving DecidableEq, Repr

inductive DeIce where
  | off | auto | forced
  deriving DecidableEq, Repr

/-- Source modes of the effective demand (3.3). -/
inductive SourceMode where
  | sole (e : CabEnd)
  | conflict | gap | stale | lost
  deriving DecidableEq, Repr

/-- Changeover phases (5.1). -/
inductive Phase where
  | unset | steady | preparing | clear | selecting | ready | confirming | mismatch
  deriving DecidableEq, Repr

inductive Side where
  | ac | dc
  deriving DecidableEq, Repr

inductive Selector where
  | onSide (side : Side)
  | moving | lost
  deriving DecidableEq, Repr

inductive Motor where
  | stopped
  | toward (side : Side)
  deriving DecidableEq, Repr

/-- The watch states of a current channel (6.1). -/
inductive Watch where
  | off | watching | interrupted | lost
  deriving DecidableEq, Repr

inductive IceLevel where
  | none | light | heavy
  deriving DecidableEq, Repr

/-- The output of a heater load (R130). The duty is that of the period in progress. -/
inductive Output where
  | off | on
  | pwm (duty : Nat)
  deriving DecidableEq, Repr

inductive StartMode where
  | listen | adopt | run
  deriving DecidableEq, Repr

inductive ConfigState where
  | unfrozen | frozenConsist | frozenDefault
  deriving DecidableEq, Repr

/-- The 23 attention causes (R139). -/
inductive Cause where
  | overvoltage | pantoDrop | wrongSystem | encoderFault | breakerFail | demandLost | peerDropAhead | lowerStall
  | raiseStall | noWire | selectorFail | lineDead | demandStale | cabConflict | dupStation | lineFault
  | heaterFault | senseDisagree | iceHeavy | arcBurst | peerSilent | configMismatch | lockoutStoreFault
  deriving DecidableEq, Repr

/-- A set of causes as one 24-bit number: cause n is bit n − 1, bit 23 is unused (9.4). -/
abbrev CauseSet := BitVec 24

inductive OrderKind where
  | ackCause | isolate | restore | unlockEnable | unlock | clearArcs | restart
  deriving DecidableEq, Repr

inductive OrderOutcome where
  | done | refusedState | refusedBusy | refusedNotEnabled | refusedCab | refusedArg
  deriving DecidableEq, Repr

/-- Who sends a lowering request, with what that fixes: kind, outcome, and the outcome recorded where the request finds
the pantograph in BIDDING or PREHEAT (1.6, R17, R72, R73). -/
inductive LowerSource where
  | yield | changeover | protectNormal | protectFast | isolate
  deriving DecidableEq, Repr

/-- The pantograph record of a status frame (9.4). -/
structure PantoRecord where
  headKind : HeadKind
  state    : PState
  tag      : Option System
  position : Nat
  isolate  : Bool
  lockout  : Bool
  capture  : Bool
  outcome  : POutcome
  arcs     : Nat
  deriving DecidableEq, Repr

/-- The status body as named fields (9.4). -/
structure StatusRecord where
  startMode   : StartMode
  configState : ConfigState
  phase       : Phase
  confirmed   : LineClass
  selector    : Selector
  close       : Bool
  closed      : Bool
  panto1      : PantoRecord
  panto2      : PantoRecord
  claim       : Nat
  grant       : Nat
  iceLevel    : IceLevel
  saturated   : Bool
  level       : Nat
  leading     : Nat
  detected    : CauseSet
  lastOrder   : Option OrderKind
  lastOutcome : Option OrderOutcome
  deriving DecidableEq, Repr

/-- The fourteen fields of the configuration block (R175). -/
structure Settings where
  budget      : Nat
  carLength   : Nat
  spacingBase : Nat
  spacingGain : Nat
  limitAC25   : Nat
  limitAC15   : Nat
  limitDC3    : Nat
  limitDC1K5  : Nat
  basePress   : Nat
  aero        : Nat
  windowLow   : Nat
  windowHigh  : Nat
  preheat     : Nat
  enables     : CauseSet
  deriving DecidableEq, Repr

/-- The consist body as named fields (9.4). -/
structure ConsistRecord where
  active    : Bool
  demand    : Demand
  system    : Option System
  direction : Direction
  deIce     : DeIce
  speed     : Nat
  marker    : Nat
  block     : Option Settings
  deriving DecidableEq, Repr

/-- The order body as named fields, with its sender (9.4). -/
structure OrderRecord where
  sender : CabEnd
  target : Nat
  kind   : OrderKind
  arg    : Nat
  deriving DecidableEq, Repr

/-- A frame that passed the checks of R157. -/
inductive ValidFrame where
  | status (sender : Nat) (r : StatusRecord)
  | consist (sender : CabEnd) (r : ConsistRecord)
  | order (o : OrderRecord)
  deriving DecidableEq, Repr

/-- The six values of the effective demand (3.3). -/
structure DemandValues where
  demand    : Demand
  system    : Option System
  direction : Direction
  deIce     : DeIce
  speed     : Nat
  marker    : Nat
  deriving DecidableEq, Repr

end Sys2Proof.Machine
end

