-- ==== Sys2Proof/Machine/State.lean ====
section
/-! DEFINITION. The state of one station, block by block, as plain data; the messages the blocks send one another; the
reasons a step can stop; the state after reset. -/

namespace Sys2Proof.Machine

/-! ## Pantograph drive (1.1) -/

/-- The setpoint given to the proportional valve (R8): a held value, or the ramp of a normal lowering, by the value and
the moment it began with. -/
inductive Setpoint where
  | held (kPa : Nat)
  | ramp (start : Nat) (since : Time)
  deriving DecidableEq, Repr

/-- The drive record of one pantograph (1.1), with its timers and inputs. -/
structure Drive where
  headKind     : HeadKind
  state        : PState
  tag          : Option System
  angle        : Nat
  captured     : Nat
  capture      : Bool
  target       : Nat
  /-- values p_t left by a rise, each with the moment it was left (R14) -/
  oldTargets   : List (Time × Nat)
  setpoint     : Setpoint
  dump         : Bool
  armed        : Bool
  breakerWait  : Timer
  isolate      : Bool
  lockout      : Bool
  cell         : CellValue
  write        : Option CellValue
  queued       : Option CellValue
  outcome      : POutcome
  raiseTimer   : Timer
  wireLoss     : Timer
  dropInterval : Timer
  lowerTimer   : Timer
  dropTimer    : Timer
  quietTimer   : Timer
  encHistory   : List Time
  /-- the angles since the angle last left the stillness band, newest first, each with its moment (R10) -/
  still        : List (Time × Nat)
  restClosed   : Bool
  deriving DecidableEq, Repr

/-! ## Line sense unit (2.1) -/

structure Sense where
  position   : Nat
  polarity   : Polarity
  crossings  : Nat
  sum        : Nat
  older      : Option LineClass
  newer      : Option LineClass
  unknownRun : Nat
  deadRun    : Nat
  confirmed  : LineClass
  deriving DecidableEq, Repr

/-! ## Peer view (3.1, 3.2, 3.3) -/

structure PeerEntry where
  address   : Nat
  record    : StatusRecord
  arrived   : Time
  stale     : Bool
  presumed1 : Bool
  presumed2 : Bool
  deriving DecidableEq, Repr

structure CabSlot where
  /-- the last consist record; `none` while the slot is not filled -/
  record      : Option ConsistRecord
  arrived     : Time
  activeFresh : Bool
  deriving DecidableEq, Repr

structure PeerView where
  /-- the peer table, by rising address -/
  table      : List PeerEntry
  slotA      : CabSlot
  slotB      : CabSlot
  mode       : SourceMode
  /-- the moment the no-cab timer started; `none` while it is stopped -/
  noCab      : Option Time
  heldValues : DemandValues
  /-- the demand derived from both slots, read in CONFLICT (R53) -/
  derived    : Demand
  dupTimer   : Timer
  disagree   : Nat
  deriving DecidableEq, Repr

/-! ## Admission unit (4.1) -/

structure Admission where
  bidder       : Option Panto
  frameCount   : Nat
  windowTimer  : Timer
  windowEnded  : Bool
  bidTimer     : Timer
  bidStart     : Time
  preheatTimer : Timer
  heated       : Time
  heatedSince  : Option Time
  holdoff      : Timer
  openBid      : Option Panto
  dropAhead    : Bool
  deriving DecidableEq, Repr

/-! ## Changeover controller (5.1) -/

structure Changeover where
  phase    : Phase
  selector : Selector
  target   : Option Side
  motor    : Motor
  transit  : Timer
  pause    : Timer
  /-- the breaker request: `true` is CLOSE -/
  close    : Bool
  /-- the breaker feedback: `true` is closed -/
  closed   : Bool
  disagree : Timer
  lineDead : Bool
  endAC    : Bool
  endDC    : Bool
  deriving DecidableEq, Repr

/-! ## Arc monitor (6.1) -/

structure Channel where
  /-- the mean window, newest sample first -/
  window    : List Nat
  mean      : Nat
  watch     : Watch
  threshold : Nat
  length    : Nat
  arcs      : Nat
  longArcs  : Nat
  firstArc  : Option Nat
  firstLong : Option Nat
  deriving DecidableEq, Repr

structure ArcMonitor where
  ch1    : Channel
  ch2    : Channel
  second : Nat
  /-- the arc ring, oldest first -/
  ring   : List Nat
  assess : Timer
  deriving DecidableEq, Repr

/-! ## Ice and heating unit (7.1) -/

structure LoadState where
  output   : Output
  /-- whether the period in progress is in its on part -/
  onPart   : Bool
  pendingDuty : Option Nat
  period   : Timer
  failed   : Bool
  watch    : Timer
  feedback : Bool
  deriving DecidableEq, Repr

structure Heating where
  temperature : Int
  humidity    : Nat
  index       : Nat
  saturated   : Bool
  level       : IceLevel
  claim       : Nat
  grant       : Nat
  insulator   : LoadState
  head1       : LoadState
  head2       : LoadState
  forceOff    : Bool
  deriving DecidableEq, Repr

/-! ## Attention unit (8.1) -/

structure Attention where
  latched  : CauseSet
  pending  : CauseSet
  met      : CauseSet
  level    : Nat
  leading  : Nat
  detected : CauseSet
  deriving DecidableEq, Repr

/-! ## Roof line port (9.1) -/

inductive FramePending where
  | none | waiting | sending
  deriving DecidableEq, Repr

inductive Cadence where
  | running (deadline : Time)
  | expired | stopped
  deriving DecidableEq, Repr

structure Snapshot where
  record : StatusRecord
  taken  : Time
  deriving DecidableEq, Repr

structure Port where
  frame       : FramePending
  byChange    : Bool
  snapshot    : Option Snapshot
  outdated    : Bool
  attempts    : Nat
  abandonRun  : Nat
  cadence     : Cadence
  spacing     : Timer
  idleFrom    : Time
  activeFrom  : Option Time
  hold        : Bool
  reception   : Option (List Byte)
  lastOrder   : Option OrderKind
  lastOutcome : Option OrderOutcome
  deriving DecidableEq, Repr

/-! ## Start-up control (chapter 10) -/

structure StartUp where
  address     : Nat
  carIndex    : Nat
  rear1       : Bool
  rear2       : Bool
  insCode     : Nat
  headCode    : Nat
  mode        : StartMode
  listen      : Timer
  adopt       : Timer
  configState : ConfigState
  config      : Settings
  pos1        : Nat
  pos2        : Nat
  deriving DecidableEq, Repr

/-! ## Messages between the blocks -/

/-- The gate report (R40): the gate result, the level L of the gate, and the confirmed class as it stands after the gate. -/
structure GateReport where
  result    : LineClass
  level     : Nat
  confirmed : LineClass
  deriving DecidableEq, Repr

/-- What one block asks of another, or delivers to it, inside one command (spec/00_scope.md 3: "Another block changes that
state by sending the owner a request"). The docstrings name the block that takes the message. -/
inductive Msg where
  /-- drive: a lowering request (R17) -/
  | lower (p : Panto) (src : LowerSource)
  /-- drive: a rise request (R9) -/
  | rise (p : Panto)
  /-- drive: the admission unit returns the pantograph to DOWN (R71 to R73) -/
  | toDown (p : Panto) (o : POutcome)
  /-- drive: the admission unit starts a bid (R64) -/
  | toBidding (p : Panto) (x : System)
  /-- drive: the admission unit starts preheat (R75) -/
  | toPreheat (p : Panto)
  /-- drive: recompute the pressure target (R7) -/
  | pressure (p : Panto)
  /-- drive: the breaker feedback shows open (R18) -/
  | breakerOpened (p : Panto)
  /-- admission: a lowering request found the pantograph in BIDDING or PREHEAT (R17) -/
  | admReturn (p : Panto) (o : POutcome)
  /-- admission: test the grounds of the bid (R72, R73) -/
  | admCheck
  /-- admission: an own pantograph changed its state (R74, R79, R81) -/
  | admPanto (p : Panto) (old new : PState)
  /-- admission: apply the admission test (R70) -/
  | admTest
  /-- admission: apply the yield test (R79) -/
  | admYield
  /-- admission: evaluate the drop-ahead condition (R81) -/
  | admDropAhead
  /-- admission: a status frame was sent without collision (R65) -/
  | admReport (shown1 shown2 : PState) (taken : Time)
  /-- admission: the head heater's output turned on or off (R76) -/
  | admHead (p : Panto) (on : Bool)
  /-- admission: test the start conditions (R63) -/
  | startTest
  /-- peer view: take the cab slots into the effective demand (R52 to R56) -/
  | viewTake
  /-- peer view: a gate report (R40, R58) -/
  | viewGate (r : GateReport)
  /-- changeover: a demand change (R86); which of demand and system changed -/
  | chgDemand (demand system : Bool)
  /-- changeover: a gate report (R40, R86) -/
  | chgGate (r : GateReport)
  /-- changeover: an own pantograph changed its state (R91, R96) -/
  | chgPanto
  /-- changeover: an opening request of a drive (R102) -/
  | chgOpen
  /-- changeover: the effective level changed (R102) -/
  | chgLevel (level : Nat)
  /-- changeover: test the exits of UNSET and CLEAR (R87, R92) -/
  | chgExits
  /-- changeover: has the transit arrived (R98) -/
  | chgArrive
  /-- changeover: the selector position changed (R99) -/
  | chgSelector
  /-- changeover: a request it waits on was cleared (R151) -/
  | chgCleared (c : Cause)
  /-- changeover: test the way back to CLOSE (R90) -/
  | chgReopen
  /-- attention: a latch (R140) -/
  | latch (c : Cause)
  /-- attention: the condition of a cause that clears on its own has ended (R148) -/
  | endOf (c : Cause)
  /-- attention: an owner reports the clearing condition of a cause (R149) -/
  | recheck (c : Cause)
  /-- attention: the met mark of a cause is set (R149) -/
  | metMark (c : Cause)
  /-- attention: the masks or the enables changed (R141, R142) -/
  | attRecompute
  /-- heating: recompute the claim, with it the grant where the claim has changed, and the apportioning (R126) -/
  | heatClaim
  /-- heating: recompute the grant (R128) -/
  | heatGrant
  /-- heating: the effective level changed (R133) -/
  | heatLevel
  /-- heating: the second report (R118) -/
  | heatStep (arcs : Nat)
  /-- heating: the HEATER_FAULT request was cleared (R135) -/
  | heatCleared
  /-- arc monitor: test the watch conditions (R107) -/
  | arcWatch
  /-- roof line port: a status frame falls due by a change (R160) -/
  | due
  /-- start-up control: a configuration block is handed on (R174, R177) -/
  | block (b : Settings)
  /-- start-up control: test the end of LISTEN (R173) -/
  | listenCheck
  deriving DecidableEq, Repr

/-! ## The station -/

/-- The whole station. -/
structure State where
  now      : Time
  held     : Bool
  drive1   : Drive
  drive2   : Drive
  unlock   : Timer
  sense    : Sense
  view     : PeerView
  adm      : Admission
  chg      : Changeover
  arc      : ArcMonitor
  heat     : Heating
  att      : Attention
  port     : Port
  start    : StartUp
  free     : Nat
  inFlight : List Msg
  pending  : List Instr
  deriving DecidableEq, Repr

/-- What a block's handling of one thing comes to: the state after it, the messages to be taken at once (before those
that wait already), and the messages to be taken when everything else of the command is done (entry 6, entry 7). -/
structure Effect where
  st    : State
  now   : List Msg
  later : List Msg
  deriving DecidableEq, Repr

/-- The reasons a step can stop with a fault. The spec names no event at which the part stops, so nothing in the model
raises one; the name stands here because the host's interface asks for the type. Safe: it is never raised. -/
inductive Fault where
  /-- raised by no definition of the model (safe) -/
  | none
  deriving DecidableEq, Repr

/-- The reasons a step can refuse a command. -/
inductive Refusal where
  /-- raised by an arm of `exec` whose command has no meaning yet; no arm is in this case (safe) -/
  | notModelled (mnemonic : String)
  deriving DecidableEq, Repr

/-! ## Power-on values of the blocks -/

/-- The default configuration (R175): all enables set on the thirteen maskable causes. -/
def Settings.default : Settings :=
  { budget := 600, carLength := 262, spacingBase := 60, spacingGain := 50, limitAC25 := 2, limitAC15 := 2,
    limitDC3 := 3, limitDC1K5 := 4, basePress := 380, aero := 40, windowLow := 1400, windowHigh := 3400,
    preheat := 20, enables := 0x3F3B60#24 }

/-- A drive instance at power-on (R28, R1), before its rest switch is looked at; the cell keeps what it holds (R23). -/
def Drive.initial (kind : HeadKind) (cell : CellValue) (restClosed : Bool) : Drive :=
  { headKind := kind, state := .down, tag := none, angle := 0, captured := 0, capture := false, target := 380,
    oldTargets := [], setpoint := .held 0, dump := false, armed := false, breakerWait := none, isolate := false,
    lockout := kind ≠ .none ∧ cell ≠ .clear, cell := cell, write := none, queued := none, outcome := .none,
    raiseTimer := none, wireLoss := none, dropInterval := none, lowerTimer := none, dropTimer := none,
    quietTimer := none, encHistory := [], still := [], restClosed := restClosed }

/-- The line sense unit at power-on and restart (R41, R42). -/
def Sense.initial : Sense :=
  { position := 0, polarity := .none, crossings := 0, sum := 0, older := none, newer := none, unknownRun := 0,
    deadRun := 0, confirmed := .unknown }

/-- The held values at power-on and restart (R60). -/
def DemandValues.initial : DemandValues :=
  { demand := .lower, system := none, direction := .aLeading, deIce := .off, speed := 0, marker := 0 }

def CabSlot.empty : CabSlot := { record := none, arrived := 0, activeFresh := false }

/-- The peer view at power-on and restart, at the moment `now` (R60, R61). -/
def PeerView.initial (now : Time) : PeerView :=
  { table := [], slotA := .empty, slotB := .empty, mode := .gap, noCab := some now, heldValues := .initial,
    derived := .lower, dupTimer := none, disagree := 0 }

/-- The admission unit at power-on and restart (R83). -/
def Admission.initial : Admission :=
  { bidder := none, frameCount := 0, windowTimer := none, windowEnded := true, bidTimer := none, bidStart := 0,
    preheatTimer := none, heated := 0, heatedSince := none, holdoff := none, openBid := none, dropAhead := false }

/-- The selector position an end switch reading gives outside a transit (R84, R100). -/
def Selector.ofReading (endAC endDC : Bool) : Selector :=
  match endAC, endDC with
  | true, false => .onSide .ac
  | false, true => .onSide .dc
  | _, _ => .lost

/-- The changeover controller at power-on, at the moment `now` (R104, R103). -/
def Changeover.initial (now : Time) (endAC endDC closed : Bool) : Changeover :=
  { phase := .unset, selector := .ofReading endAC endDC, target := none, motor := .stopped, transit := none,
    pause := none, close := false, closed := closed,
    disagree := if closed then some (now + Config.disagreeTime) else none,
    lineDead := false, endAC := endAC, endDC := endDC }

/-- A current channel and its arc record at power-on (R115). -/
def Channel.initial : Channel :=
  { window := List.replicate 400 0, mean := 0, watch := .off, threshold := 0, length := 0, arcs := 0, longArcs := 0,
    firstArc := none, firstLong := none }

/-- The arc monitor at power-on, at the moment `now` (R115, R112). -/
def ArcMonitor.initial (now : Time) : ArcMonitor :=
  { ch1 := .initial, ch2 := .initial, second := 0, ring := List.replicate 10 0,
    assess := some (now + Config.assessTime) }

/-- A load at power-on: output OFF, with its feedback as it reads (R137). -/
def LoadState.initial (feedback : Bool) : LoadState :=
  { output := .off, onPart := false, pendingDuty := none, period := none, failed := false, watch := none,
    feedback := feedback }

/-- The ice and heating unit at power-on (R137), before the feedback watches of fitted loads start. -/
def Heating.initial (fbInsulator fbHead1 fbHead2 : Bool) : Heating :=
  { temperature := 0, humidity := 0, index := 0, saturated := false, level := .none, claim := 0, grant := 0,
    insulator := .initial fbInsulator, head1 := .initial fbHead1, head2 := .initial fbHead2, forceOff := false }

/-- The attention unit at power-on (R152). -/
def Attention.initial : Attention :=
  { latched := 0, pending := 0, met := 0, level := 5, leading := 0, detected := 0 }

/-- The roof line port at power-on, at the moment `now` (R170). -/
def Port.initial (now : Time) : Port :=
  { frame := .none, byChange := false, snapshot := none, outdated := false, attempts := 0, abandonRun := 0,
    cadence := .stopped, spacing := none, idleFrom := now, activeFrom := some now, hold := false, reception := none,
    lastOrder := none, lastOutcome := none }

/-- Start-up control at power-on, at the moment `now`, under the given strap values (R171, R180). -/
def StartUp.initial (now : Time) (pins : StrapPins) : StartUp :=
  { address := pins.address.toNat + 1, carIndex := pins.carIndex.toNat, rear1 := pins.rear1, rear2 := pins.rear2,
    insCode := pins.insulator.toNat, headCode := pins.heads.toNat, mode := .listen,
    listen := some (now + Config.listenTime), adopt := none, configState := .unfrozen, config := .default, pos1 := 0,
    pos2 := 0 }

/-- The station right after the release of the power-on reset (R180), with every strap pin at 0, both rest switches
closed, the selector on its AC side, the breaker open and no heater current (entry 8), at moment 0 of the model's
clock; no command waits. -/
def State.reset : State :=
  { now := 0, held := false, drive1 := .initial .none .clear true, drive2 := .initial .none .clear true,
    unlock := none, sense := .initial, view := .initial 0, adm := .initial, chg := .initial 0 true false false,
    arc := .initial 0, heat := .initial false false false, att := .initial, port := .initial 0,
    start := .initial 0 .zero, free := 0, inFlight := [], pending := [] }

end Sys2Proof.Machine
end

