-- ==== Sys2Proof/Machine/Ops.lean ====
section
/-! DEFINITION. The named operations over the state: one record of a pair by its name, one block written, the clock and
the timers, and what every block reads from the owner of a value. -/

namespace Sys2Proof

def Panto.other : Panto → Panto
  | .p1 => .p2
  | .p2 => .p1

def CabEnd.other : CabEnd → CabEnd
  | .a => .b
  | .b => .a

namespace Machine

/-! ## One record of a pair -/

def State.drive (s : State) : Panto → Drive
  | .p1 => s.drive1
  | .p2 => s.drive2

def State.setDrive (s : State) (p : Panto) (d : Drive) : State :=
  match p with
  | .p1 => { s with drive1 := d }
  | .p2 => { s with drive2 := d }

def StatusRecord.panto (r : StatusRecord) : Panto → PantoRecord
  | .p1 => r.panto1
  | .p2 => r.panto2

def PeerEntry.presumed (e : PeerEntry) : Panto → Bool
  | .p1 => e.presumed1
  | .p2 => e.presumed2

def PeerView.slot (v : PeerView) : CabEnd → CabSlot
  | .a => v.slotA
  | .b => v.slotB

def PeerView.setSlot (v : PeerView) (e : CabEnd) (c : CabSlot) : PeerView :=
  match e with
  | .a => { v with slotA := c }
  | .b => { v with slotB := c }

def ArcMonitor.channel (a : ArcMonitor) : Panto → Channel
  | .p1 => a.ch1
  | .p2 => a.ch2

def ArcMonitor.setChannel (a : ArcMonitor) (p : Panto) (c : Channel) : ArcMonitor :=
  match p with
  | .p1 => { a with ch1 := c }
  | .p2 => { a with ch2 := c }

def Heating.load (h : Heating) : Load → LoadState
  | .insulator => h.insulator
  | .head .p1 => h.head1
  | .head .p2 => h.head2

def Heating.setLoad (h : Heating) (l : Load) (x : LoadState) : Heating :=
  match l with
  | .insulator => { h with insulator := x }
  | .head .p1 => { h with head1 := x }
  | .head .p2 => { h with head2 := x }

/-- The own position of a pantograph (R172). -/
def StartUp.position (c : StartUp) : Panto → Nat
  | .p1 => c.pos1
  | .p2 => c.pos2

/-- The mounting strap of a pantograph: `true` is REAR (R171). -/
def StartUp.rear (c : StartUp) : Panto → Bool
  | .p1 => c.rear1
  | .p2 => c.rear2

/-! ## One block written -/

def State.withNow (s : State) (x : Time) : State := { s with now := x }
def State.withHeld (s : State) (x : Bool) : State := { s with held := x }
def State.withUnlock (s : State) (x : Timer) : State := { s with unlock := x }
def State.withSense (s : State) (x : Sense) : State := { s with sense := x }
def State.withView (s : State) (x : PeerView) : State := { s with view := x }
def State.withAdm (s : State) (x : Admission) : State := { s with adm := x }
def State.withChg (s : State) (x : Changeover) : State := { s with chg := x }
def State.withArc (s : State) (x : ArcMonitor) : State := { s with arc := x }
def State.withHeat (s : State) (x : Heating) : State := { s with heat := x }
def State.withAtt (s : State) (x : Attention) : State := { s with att := x }
def State.withPort (s : State) (x : Port) : State := { s with port := x }
def State.withStart (s : State) (x : StartUp) : State := { s with start := x }
def State.withInFlight (s : State) (x : List Msg) : State := { s with inFlight := x }

/-! ## The clock and the timers -/

/-- The clock goes on to `t`; a moment that lies behind leaves it (entry 1). -/
def State.advance (s : State) (t : Time) : State := s.withNow (max s.now t)

/-- The deadline of a timer of duration `d` started now. -/
def State.after (s : State) (d : Time) : Timer := some (s.now + d)

/-- A block's handling that changes nothing and sends nothing. -/
def Effect.none (s : State) : Effect := { st := s, now := [], later := [] }

/-- The expiry of a timer: nothing where it does not run; else the clock goes to its deadline and `k` is done (entry 1,
entry 2). -/
def State.expire (s : State) (timer : Timer) (k : State → Effect) : Effect :=
  match timer with
  | Option.none => .none s
  | some d => k (s.advance d)

/-! ## What blocks read from the owner -/

/-- A fitted pantograph has a head (R1). -/
def Drive.fitted (d : Drive) : Bool := d.headKind ≠ .none

/-- The side that serves a system (R84); heads serve the same way (spec/00_scope.md 5, "Serving"). -/
def System.side : System → Side
  | .ac25 => .ac
  | .ac15 => .ac
  | .dc3 => .dc
  | .dc1k5 => .dc

def HeadKind.serves : HeadKind → System → Bool
  | .ac, x => x.side = .ac
  | .dc, x => x.side = .dc
  | .none, _ => false

/-- The selector serves a system when its position is that system's serving side (R84). -/
def Selector.serves (p : Selector) (x : System) : Bool := p = .onSide x.side

/-- The selector position serves a pantograph's system tag; a tag of none is served by none. -/
def Selector.servesTag (p : Selector) : Option System → Bool
  | some x => p.serves x
  | none => false

/-- Pantographs in RISING or CONTACT are those a lowering request moves (R17). -/
def PState.up : PState → Bool
  | .rising => true
  | .contact => true
  | _ => false

/-- A pantograph counts as raised in PREHEAT, RISING or CONTACT (R62). -/
def PState.countsRaised : PState → Bool
  | .preheat => true
  | .rising => true
  | .contact => true
  | _ => false

/-- BIDDING and PREHEAT, the admission unit's two states (R2). -/
def PState.inBid : PState → Bool
  | .bidding => true
  | .preheat => true
  | _ => false

def PState.falling : PState → Bool
  | .fallingNormal => true
  | .fallingFast => true
  | _ => false

/-- DOWN or DROPPED: what R91 asks of every fitted own pantograph. -/
def PState.atRest : PState → Bool
  | .down => true
  | .dropped => true
  | _ => false

/-- Every fitted own pantograph is in DOWN or DROPPED (R91). -/
def State.allDown (s : State) : Bool :=
  (!s.drive1.fitted || s.drive1.state.atRest) && (!s.drive2.fitted || s.drive2.state.atRest)

/-- Some own pantograph is in CONTACT (R89, R96). -/
def State.anyContact (s : State) : Bool := s.drive1.state = .contact || s.drive2.state = .contact

/-- The demand obeyed: the held one, but in CONFLICT the one derived from both slots (R53). -/
def PeerView.demand (v : PeerView) : Demand := if v.mode = .conflict then v.derived else v.heldValues.demand

/-- The conflict mark of a RAISE (R53). -/
def PeerView.conflictMark (v : PeerView) : Bool := v.mode = .conflict && v.demand = .raise

/-- The stale mark of a RAISE (R54, R55). -/
def PeerView.staleMark (v : PeerView) : Bool := (v.mode = .stale || v.mode = .lost) && v.demand = .raise

/-- The sole active cab (R52). -/
def PeerView.soleCab (v : PeerView) : Option CabEnd :=
  match v.mode with
  | .sole e => some e
  | _ => none

/-- The line class equals a demanded system (R38). -/
def LineClass.isSystem (c : LineClass) : Option System → Bool
  | some x => c = .sys x
  | none => false

/-- The three kinds of a confirmed class (R38): live is a system or OVER. -/
def LineClass.live : LineClass → Bool
  | .sys _ => true
  | .over => true
  | _ => false

/-- The end switch reading is valid for a side (R84). -/
def Changeover.validFor (c : Changeover) : Side → Bool
  | .ac => c.endAC && !c.endDC
  | .dc => c.endDC && !c.endAC

/-- The end switch reading is AC valid or DC valid (R84). -/
def Changeover.readingValid (c : Changeover) : Bool := c.validFor .ac || c.validFor .dc

/-- Request and feedback agree (R103). -/
def Changeover.agree (c : Changeover) : Bool := c.close = c.closed

/-- The raise limit of a system (R63). -/
def Settings.raiseLimit (c : Settings) : System → Nat
  | .ac25 => c.limitAC25
  | .ac15 => c.limitAC15
  | .dc3 => c.limitDC3
  | .dc1k5 => c.limitDC1K5

/-- A load's output counts as on when it is full on or in the on part of a PWM period (R76, R134). -/
def LoadState.isOn (x : LoadState) : Bool :=
  match x.output with
  | .off => false
  | .on => true
  | .pwm _ => x.onPart

/-- A clamp to a range (spec/00_scope.md 5, "Arithmetic"). -/
def clampTo (low high x : Nat) : Nat := max low (min high x)

end Machine

end Sys2Proof
end

