-- ==== Sys2Proof/Machine/Arc.lean ====
section
/-! DEFINITION. The arc monitor (chapter 6): channels, interruptions, arc records, the ring. -/

namespace Sys2Proof.Machine

/-- A current sample as the monitor takes it (R106). -/
def currentTaken (v : Option Nat) : Nat := min Config.currentMax (v.getD 0)

/-- A sample enters the mean window, and the mean follows (R106). -/
def Channel.enter (c : Channel) (x : Nat) : Channel :=
  let w := x :: c.window.take (Config.meanSamples - 1)
  { c with window := w, mean := w.sum / Config.meanSamples }

/-- What an interruption's length makes it (R109). -/
inductive Verdict where
  | glitch | arc | longArc
  deriving DecidableEq, Repr

def verdict (length : Nat) : Verdict :=
  if length < Config.arcShortest then .glitch else if length < Config.arcLong then .arc else .longArc

/-- An arc or a long arc enters the arc record (R110); a marker already valid is kept. -/
def Channel.log (c : Channel) (v : Verdict) (marker : Nat) : Channel :=
  match v with
  | .glitch => c
  | .arc => { c with arcs := min 255 (c.arcs + 1), firstArc := some (c.firstArc.getD marker) }
  | .longArc =>
    { c with arcs := min 255 (c.arcs + 1), longArcs := min 15 (c.longArcs + 1)
             firstArc := some (c.firstArc.getD marker), firstLong := some (c.firstLong.getD marker) }

/-- Whether a verdict counts in the second (R111). -/
def Verdict.counts : Verdict → Bool
  | .glitch => false
  | _ => true

/-- The interruption watch at a sample (R108, R109): the channel after it and the verdict of an interruption that ended. The
mean is the one before the sample entered the window. An interruption that has ended leaves its threshold and length as
they are (entry 41, the model's choice). -/
def Channel.watchSample (c : Channel) (x marker : Nat) : Channel × Verdict :=
  match c.watch with
  | .off => (c, .glitch)
  | .watching =>
    if Config.watchMean ≤ c.mean ∧ x < c.mean / 20 then
      ({ c with watch := .interrupted, threshold := c.mean / 20, length := 1 }, .glitch)
    else (c, .glitch)
  | .interrupted =>
    if x < c.threshold then
      if c.length + 1 = Config.arcLost then ({ c with watch := .lost, length := Config.arcLost }, .glitch)
      else ({ c with length := c.length + 1 }, .glitch)
    else ({ c with watch := .watching }.log (verdict c.length) marker, verdict c.length)
  | .lost => if x < c.threshold then (c, .glitch) else ({ c with watch := .watching }, .glitch)

/-- A contact current sample (R106 to R111); those of a pantograph not fitted are ignored. -/
def arcSample (s : State) (p : Panto) (v : Option Nat) : Effect :=
  if (s.drive p).fitted then
    let x := currentTaken v
    let r := (s.arc.channel p).watchSample x s.view.heldValues.marker
    .none (s.withArc
      { s.arc.setChannel p (r.1.enter x) with
        second := if r.2.counts then min 255 (s.arc.second + 1) else s.arc.second })
  else .none s

/-- The watch state under the condition of R107: OFF where it does not hold, WATCHING where it comes to hold. -/
def Channel.watched (c : Channel) (holds : Bool) : Channel :=
  if holds then (if c.watch = .off then { c with watch := .watching } else c)
  else { c with watch := .off, length := 0 }

/-- The condition of R107: CONTACT under a closed breaker. -/
def watchCondition (s : State) (p : Panto) : Bool :=
  (s.drive p).fitted && (s.drive p).state = .contact && s.chg.closed

/-- The monitor tests the watch conditions (R107). -/
def arcWatch (s : State) : Effect :=
  .none (s.withArc
    { s.arc with ch1 := s.arc.ch1.watched (watchCondition s .p1), ch2 := s.arc.ch2.watched (watchCondition s .p2) })

/-- The closing of a second (R112, R113): push, ring sum, ARC_BURST, the condition's report, the second report. -/
def arcAssess (s : State) : Effect :=
  s.expire s.arc.assess fun s =>
    let ring := s.arc.ring.drop 1 ++ [s.arc.second]
    { st := s.withArc
        { s.arc with ring := ring, second := 0, assess := s.arc.assess.map (· + Config.assessTime) }
      now := (if Config.burstSum ≤ ring.sum then [.latch .arcBurst] else [.recheck .arcBurst]) ++ [.heatStep s.arc.second]
      later := [] }

/-- An arc record cleared (R114, R116). -/
def Channel.cleared (c : Channel) : Channel := { c with arcs := 0, longArcs := 0, firstArc := none, firstLong := none }

/-- Records, ring and second count cleared (R114, R116). -/
def ArcMonitor.cleared (a : ArcMonitor) : ArcMonitor :=
  { a with ch1 := a.ch1.cleared, ch2 := a.ch2.cleared, second := 0, ring := List.replicate 10 0 }

end Sys2Proof.Machine
end

