-- ==== Sys2Proof/Machine/Flags.lean ====
section
/-! DEFINITION. The attention unit (chapter 8): the cause table as sets of causes, the effective level, latching and
clearing. -/

namespace Sys2Proof.Machine

/-- The number of a cause (R139). -/
def Cause.number : Cause → Nat
  | .overvoltage => 1 | .pantoDrop => 2 | .wrongSystem => 3 | .encoderFault => 4 | .breakerFail => 5
  | .demandLost => 6 | .peerDropAhead => 7 | .lowerStall => 8 | .raiseStall => 9 | .noWire => 10
  | .selectorFail => 11 | .lineDead => 12 | .demandStale => 13 | .cabConflict => 14 | .dupStation => 15
  | .lineFault => 16 | .heaterFault => 17 | .senseDisagree => 18 | .iceHeavy => 19 | .arcBurst => 20
  | .peerSilent => 21 | .configMismatch => 22 | .lockoutStoreFault => 23

/-- The causes in the order of their numbers. -/
def Cause.all : List Cause :=
  [.overvoltage, .pantoDrop, .wrongSystem, .encoderFault, .breakerFail, .demandLost, .peerDropAhead, .lowerStall,
   .raiseStall, .noWire, .selectorFail, .lineDead, .demandStale, .cabConflict, .dupStation, .lineFault, .heaterFault,
   .senseDisagree, .iceHeavy, .arcBurst, .peerSilent, .configMismatch, .lockoutStoreFault]

/-- The cause with a number 1..23 (R150). -/
def Cause.ofNumber (n : Nat) : Option Cause := Cause.all.find? fun c => c.number = n

/-- The default level of a cause (R139). -/
def Cause.level : Cause → Nat
  | .overvoltage => 0
  | .pantoDrop => 1 | .wrongSystem => 1 | .encoderFault => 1 | .breakerFail => 1 | .demandLost => 1
  | .peerDropAhead => 1 | .lowerStall => 1
  | .raiseStall => 2 | .noWire => 2 | .selectorFail => 2 | .lineDead => 2 | .demandStale => 2 | .cabConflict => 2
  | .dupStation => 2 | .lineFault => 2
  | .heaterFault => 3
  | .senseDisagree => 4 | .iceHeavy => 4 | .arcBurst => 4 | .peerSilent => 4 | .configMismatch => 4
  | .lockoutStoreFault => 4

/-- The thirteen maskable causes (R139, R175). -/
def Cause.maskable : Cause → Bool
  | .demandLost => true | .peerDropAhead => true | .raiseStall => true | .noWire => true | .lineDead => true
  | .demandStale => true | .cabConflict => true | .heaterFault => true | .senseDisagree => true | .iceHeavy => true
  | .arcBurst => true | .peerSilent => true | .configMismatch => true
  | _ => false

/-- The causes that clear on their own (R139, R148). -/
def Cause.clearsItself : Cause → Bool
  | .demandLost => true | .lineDead => true | .demandStale => true | .cabConflict => true | .dupStation => true
  | .senseDisagree => true | .iceHeavy => true
  | _ => false

/-- The two causes whose clearing condition is an event, kept by a met mark (R139, R140). -/
def Cause.hasMet : Cause → Bool
  | .lineFault => true | .lockoutStoreFault => true
  | _ => false

/-- The set of one cause: cause n is bit n − 1 (9.4). -/
def Cause.bit (c : Cause) : CauseSet := BitVec.twoPow 24 (c.number - 1)

def CauseSet.has (x : CauseSet) (c : Cause) : Bool := x.getLsbD (c.number - 1)
def CauseSet.add (x : CauseSet) (c : Cause) : CauseSet := x ||| c.bit
def CauseSet.drop (x : CauseSet) (c : Cause) : CauseSet := x &&& ~~~c.bit

/-- The set of the causes of a list. -/
def CauseSet.ofList (l : List Cause) : CauseSet := l.foldl CauseSet.add 0

/-- The thirteen maskable causes as a set (R175). -/
def maskableSet : CauseSet := CauseSet.ofList (Cause.all.filter Cause.maskable)

/-- The phases in which SENSE_DISAGREE and LINE_DEAD are not phase-masked (R142). -/
def Phase.unmasked : Phase → Bool
  | .steady => true
  | .confirming => true
  | _ => false

/-- A cause is phase-masked (R142). -/
def phaseMasked (ph : Phase) (c : Cause) : Bool :=
  (c = .senseDisagree || c = .lineDead) && !ph.unmasked

/-- A cause is enabled: a non-maskable one always, a maskable one by its bit (R141). -/
def enabled (enables : CauseSet) (c : Cause) : Bool := !c.maskable || CauseSet.has enables c

/-- A cause is detected (R143). -/
def isDetected (latched enables : CauseSet) (ph : Phase) (c : Cause) : Bool :=
  CauseSet.has latched c && enabled enables c && !phaseMasked ph c

/-- The detected causes, by rising number (R143). -/
def detectedCauses (latched enables : CauseSet) (ph : Phase) : List Cause :=
  Cause.all.filter (isDetected latched enables ph)

/-- The lowest default level among causes, or 5 (R143). -/
def lowestLevel (l : List Cause) : Nat := l.foldr (fun c n => min c.level n) 5

/-- The smallest-numbered cause at a level, or 0 (R143); the list stands by rising number. -/
def leadingOf (l : List Cause) (level : Nat) : Nat :=
  match l.find? (fun c => c.level = level) with
  | some c => c.number
  | none => 0

/-- Level, leading cause and detected set computed anew (R143). -/
def Attention.recomputed (a : Attention) (enables : CauseSet) (ph : Phase) : Attention :=
  let l := detectedCauses a.latched enables ph
  { a with level := lowestLevel l, leading := leadingOf l (lowestLevel l), detected := CauseSet.ofList l }

/-- The lowering requests of a change of level (R145, R146); the drives refuse those for pantographs not fitted (R1). -/
def levelLowering (old new : Nat) : List Msg :=
  if new = 0 then [.lower .p1 .protectFast, .lower .p2 .protectFast]
  else if new = 1 ∧ 2 ≤ old then [.lower .p1 .protectNormal, .lower .p2 .protectNormal]
  else []

/-- Write the attention unit with its level computed anew, and deliver a change of the level to its readers (R144), before
`more`, the deliveries of a clearing: the heating unit apportions for a level that the end of HEATER_FAULT raised before it
clears the failed marks (R135 leaves it open; entry 18, the model's choice). -/
def attentionEffect (s : State) (a : Attention) (more : List Msg) : Effect :=
  let a' := a.recomputed s.start.config.enables s.chg.phase
  if a'.level = s.att.level then { st := s.withAtt a', now := more, later := [] }
  else
    { st := s.withAtt a',
      now := [.due] ++ levelLowering s.att.level a'.level ++ [.admCheck, .chgLevel a'.level, .heatLevel] ++ more,
      later := [.chgReopen, .startTest] }

/-- The standing condition under which a latched cause clears on acknowledge (R149). -/
def clearingHolds (s : State) : Cause → Bool
  | .overvoltage => s.sense.confirmed ≠ .over
  | .wrongSystem => s.chg.phase ≠ .mismatch || s.sense.confirmed = .dead
  | .encoderFault =>
    (!s.drive1.fitted || s.drive1.quietTimer.isNone) && (!s.drive2.fitted || s.drive2.quietTimer.isNone)
  | .breakerFail => s.chg.agree
  | .peerDropAhead => !s.adm.dropAhead
  | .lowerStall => (!s.drive1.fitted || s.drive1.restClosed) && (!s.drive2.fitted || s.drive2.restClosed)
  | .selectorFail => s.chg.readingValid
  | .arcBurst => decide (s.arc.ring.sum < Config.burstSum)
  | .lineFault => CauseSet.has s.att.met .lineFault
  | .lockoutStoreFault => CauseSet.has s.att.met .lockoutStoreFault
  | _ => true

/-- The blocks that wait on the clearing of a cause (R151). -/
def clearingDelivery : Cause → List Msg
  | .wrongSystem => [.chgCleared .wrongSystem]
  | .selectorFail => [.chgCleared .selectorFail]
  | .heaterFault => [.heatCleared]
  | _ => []

/-- A latch (R140): the request becomes latched, the pending mark stays, a met mark is cleared. -/
def attLatch (s : State) (c : Cause) : Effect :=
  attentionEffect s
    { s.att with
      latched := CauseSet.add s.att.latched c
      met := if c.hasMet then CauseSet.drop s.att.met c else s.att.met } []

/-- A clearing (R148, R149, R150, R151): request and pending mark are cleared and the clearing is delivered. -/
def attClear (s : State) (c : Cause) : Effect :=
  attentionEffect s
    { s.att with latched := CauseSet.drop s.att.latched c, pending := CauseSet.drop s.att.pending c }
    (clearingDelivery c)

/-- The condition of a cause that clears on its own has ended (R148). -/
def attEnd (s : State) (c : Cause) : Effect :=
  if CauseSet.has s.att.latched c then attClear s c else .none s

/-- A report of a clearing condition (R149): a latched, acknowledged-pending cause whose condition holds clears. -/
def attRecheck (s : State) (c : Cause) : Effect :=
  if CauseSet.has s.att.latched c && CauseSet.has s.att.pending c && clearingHolds s c then attClear s c else .none s

/-- The event that a met mark records (R149): it sets the mark, then reports the condition. -/
def attMet (s : State) (c : Cause) : Effect :=
  { st := s.withAtt { s.att with met := CauseSet.add s.att.met c }, now := [.recheck c], later := [] }

/-- The masks or the enables changed (R141, R142): the level is computed anew. -/
def attRecompute (s : State) : Effect := attentionEffect s s.att []

/-- ACK_CAUSE naming a cause (R150). -/
def attAcknowledge (s : State) (c : Cause) : Effect :=
  if !CauseSet.has s.att.latched c || c.clearsItself then .none s
  else if clearingHolds s c then attClear s c
  else { st := s.withAtt { s.att with pending := CauseSet.add s.att.pending c }, now := [], later := [] }

end Sys2Proof.Machine
end

