-- ==== Sys2Proof/Machine/Changeover.lean ====
section
/-! DEFINITION. The changeover controller (chapter 5): phases, selector drive, breaker request. -/

namespace Sys2Proof.Machine

/-! ## Selector and breaker of the controller's record -/

/-- Whether the motor turns (R98): a transit runs, no retarget pause runs, the feedback shows open. -/
def Changeover.motorNow (c : Changeover) : Motor :=
  match c.target with
  | some side => if c.transit.isSome && c.pause.isNone && !c.closed then .toward side else .stopped
  | none => .stopped

/-- The motor follows its conditions (R98). -/
def Changeover.driveMotor (c : Changeover) : Changeover := { c with motor := c.motorNow }

/-- The start of a transit (R98). -/
def Changeover.startTransit (c : Changeover) (now : Time) (side : Side) : Changeover :=
  Changeover.driveMotor
    { c with target := some side, selector := .moving, transit := some (now + Config.transitTime), pause := none }

/-- The end of a transit at a position (R98, R105). -/
def Changeover.endTransit (c : Changeover) (p : Selector) : Changeover :=
  { c with target := none, motor := .stopped, transit := none, pause := none, selector := p }

/-- A new target while a transit runs (R99). -/
def Changeover.retarget (c : Changeover) (now : Time) (side : Side) : Changeover :=
  if c.target = none ∨ c.target = some side then c
  else
    { c with target := some side, motor := .stopped, transit := none
             pause := if c.pause.isSome then c.pause else some (now + Config.pauseTime) }

/-- After a change of request or feedback (R103): the disagreement timer starts or stops. -/
def Changeover.judge (c : Changeover) (now : Time) : Changeover :=
  { c with disagree := if c.agree then none else some (now + Config.disagreeTime) }

/-- The breaker request (R101, R102): an unchanged request starts no timer. -/
def Changeover.setRequest (c : Changeover) (now : Time) (close : Bool) : Changeover :=
  if c.close = close then c else { c with close := close }.judge now

/-- The report of BREAKER_FAIL's condition at a change of request or feedback that makes them agree (R149). -/
def agreeMsgs (old new : Changeover) : List Msg :=
  if (old.close ≠ new.close ∨ old.closed ≠ new.closed) ∧ new.agree then [.recheck .breakerFail] else []

/-- What a change of the selector position is delivered to (R85, R99). -/
def selectorMsgs (old new : Changeover) : List Msg := if old.selector = new.selector then [] else [.chgSelector]

/-- A lowering request with outcome LOWERED to each own pantograph in RISING or CONTACT (R88, R95, R97). -/
def lowerRaised (s : State) : List Msg :=
  ([Panto.p1, Panto.p2].filter fun p => (s.drive p).state.up).map fun p => .lower p .changeover

/-- Write the controller's record and deliver what changed in selector and breaker. -/
def chgEffect (s : State) (c : Changeover) (more : List Msg) : Effect :=
  { st := s.withChg c
    now := agreeMsgs s.chg c ++ selectorMsgs s.chg c ++ more
    later := if s.chg.selector = c.selector then [] else [.startTest] }

/-- The selector position becomes LOST outside a change of phase (R98, R100): SELECTOR_FAIL is latched before the readers of
the position take the change, so that it holds UNSET and CLEAR (R87, R92). -/
def chgLost (s : State) (c : Changeover) : Effect :=
  { st := s.withChg c
    now := [.latch .selectorFail] ++ agreeMsgs s.chg c ++ selectorMsgs s.chg c
    later := [.startTest] }

/-! ## Entering a phase -/

/-- The request at the entry to a phase (R101, R102): every phase but STEADY holds it OPEN; an entry to STEADY closes it
at a level of 2 or higher with a demand of RAISE. -/
def requestAtEntry (s : State) (ph : Phase) : Bool :=
  ph = .steady && decide (2 ≤ s.att.level) && s.view.demand = .raise

/-- The side that serves the demanded system. -/
def demandedSide (s : State) : Option Side := s.view.heldValues.system.map System.side

/-- The controller's record at the entry to a phase: the request, and the start of the transit of SELECTING (R93). -/
def Changeover.entered (c : Changeover) (s : State) (ph : Phase) : Changeover :=
  let c := { c with phase := ph }.setRequest s.now (requestAtEntry s ph)
  if ph = .selecting then
    match demandedSide s with
    | some side => c.startTransit s.now side
    | none => c
  else c

/-- What the entry to a phase brings beyond the record (R88, R92, R93, R95): a latch and lowering at MISMATCH, lowering and
the test of R91 at PREPARING, the exits of CLEAR, the arrival test of a transit. -/
def entryMsgs (s : State) (ph : Phase) : List Msg :=
  match ph with
  | .preparing => lowerRaised s ++ [.chgPanto]
  | .mismatch => [.latch .wrongSystem] ++ lowerRaised s
  | .clear => [.chgExits]
  | .selecting => [.chgArrive]
  | .unset | .steady | .ready | .confirming => []

/-- A change of phase (R85): the record, its readers, and what the new phase brings; `c` is the record before. The
admission unit takes the change before what the phase brings, so that a bidder at the entry to MISMATCH is returned with
WITHHELD, before the level of WRONG_SYSTEM gives PROTECT (R73 leaves it open; entry 18, the model's choice). -/
def enterPhase (s : State) (c : Changeover) (ph : Phase) (before : List Msg) : Effect :=
  let c' := c.entered s ph
  { st := s.withChg c'
    now := before ++ agreeMsgs s.chg c' ++ [.due, .admCheck, .attRecompute, .recheck .wrongSystem]
      ++ selectorMsgs s.chg c' ++ entryMsgs s ph
    later := [.chgReopen, .startTest] }

/-! ## Tests of the phases -/

/-- The selector serves the demanded system. -/
def State.selectorServes (s : State) : Bool := s.chg.selector.servesTag s.view.heldValues.system

/-- The exits of UNSET and CLEAR (R87, R92). -/
def chgExits (s : State) : Effect :=
  if (s.chg.phase = .unset || s.chg.phase = .clear) && s.view.heldValues.system.isSome then
    if s.sense.confirmed = .dead then
      if s.selectorServes then enterPhase s s.chg .ready []
      else if CauseSet.has s.att.latched .selectorFail then .none s
      else enterPhase s s.chg .selecting []
    else if s.sense.confirmed.isSystem s.view.heldValues.system && s.selectorServes then
      enterPhase s s.chg .confirming []
    else .none s
  else .none s

/-- An own pantograph changed its state, or PREPARING was entered (R91, R96). -/
def chgPanto (s : State) : Effect :=
  let ended := s.chg.lineDead && !s.anyContact
  let c := if ended then { s.chg with lineDead := false } else s.chg
  let msgs := if ended then [Msg.endOf .lineDead] else []
  if c.phase = .preparing && s.allDown && !c.closed then enterPhase s c .clear msgs
  else { st := s.withChg c, now := msgs, later := [] }

/-- A demand change (R88, R92 to R95, R97). READY starts a transit to the other side whether or not SELECTOR_FAIL is latched
(entry 44, the model's choice). -/
def chgDemand (s : State) (demandChanged systemChanged : Bool) : Effect :=
  let lowers := demandChanged && s.view.demand ≠ .raise
  let prepares := demandChanged && s.view.demand = .prepare
  let c := if lowers && s.view.demand = .lower then s.chg.setRequest s.now false else s.chg
  let msgs := if lowers then lowerRaised s else []
  let stay := chgEffect s c msgs
  let go := fun ph => enterPhase s c ph msgs
  match s.chg.phase with
  | .steady =>
    if prepares || (systemChanged && !s.sense.confirmed.isSystem s.view.heldValues.system) then go .preparing else stay
  | .preparing => stay
  | .unset | .clear => { stay with now := stay.now ++ [.chgExits] }
  | .selecting =>
    match demandedSide s with
    | some side => if systemChanged then chgEffect s (c.retarget s.now side) msgs else stay
    | none => stay
  | .ready =>
    match s.view.heldValues.system with
    | some x =>
      if !systemChanged then stay
      else if s.chg.selector.serves x then
        { stay with now := stay.now ++
            (([Panto.p1, Panto.p2].filter fun p => (s.drive p).state.up && (s.drive p).tag ≠ some x).map
              fun p => .lower p .changeover) }
      else go .selecting
    | none => stay
  | .confirming => if prepares || systemChanged then go .preparing else stay
  | .mismatch => if systemChanged then go .preparing else stay

/-- The line-dead condition at a gate report (R96): it ends at a result other than DEAD, and is evaluated in CONFIRMING. -/
def lineDeadAfter (s : State) (r : GateReport) : Bool :=
  if r.result ≠ .dead then false
  else if s.chg.phase = .confirming && r.confirmed = .dead then
    s.anyContact && decide (Config.deadGates ≤ s.sense.deadRun)
  else s.chg.lineDead

/-- What the line-dead condition reports after a gate report (R96, R148). -/
def lineDeadMsgs (s : State) (r : GateReport) : List Msg :=
  if lineDeadAfter s r then
    (if s.chg.phase = .confirming && r.confirmed = .dead then [.latch .lineDead] else [])
  else if s.chg.lineDead then [.endOf .lineDead] else []

/-- A gate report (R87, R89, R92, R94, R95, R96). An unknown demanded system is equal to no class, so that a live class leads
from CONFIRMING to MISMATCH also under it (entry 39, the model's choice). -/
def chgGate (s : State) (r : GateReport) : Effect :=
  let c := { s.chg with lineDead := lineDeadAfter s r }
  let msgs := lineDeadMsgs s r
  let stay := chgEffect s c msgs
  let go := fun ph => enterPhase s c ph msgs
  let class_ := r.confirmed
  let equal := class_.isSystem s.view.heldValues.system
  match s.chg.phase with
  | .unset | .clear => { stay with now := stay.now ++ [.chgExits] }
  | .steady =>
    if class_ = .dead then
      if s.anyContact then go .confirming
      else if s.allDown && !c.closed then go .clear
      else go .preparing
    else if class_.live && !equal then go .mismatch
    else stay
  | .ready => if r.result ≠ .dead then go .confirming else stay
  | .confirming =>
    if equal then go .steady
    else if class_.live then go .mismatch
    else stay
  | .preparing | .selecting | .mismatch => stay

/-- An opening request of a drive (R15, R19, R102). -/
def chgOpen (s : State) : Effect := chgEffect s (s.chg.setRequest s.now false) []

/-- A change of the effective level (R102). -/
def chgLevel (s : State) (level : Nat) : Effect := if level ≤ 1 then chgOpen s else .none s

/-- The arrival test of a transit (R98): at its start, at a change of an end switch, at the end of a retarget pause. -/
def chgArrive (s : State) : Effect :=
  match s.chg.target with
  | none => .none s
  | some side =>
    if s.chg.transit.isSome && s.chg.pause.isNone && s.chg.validFor side then
      let c := s.chg.endTransit (.onSide side)
      if s.chg.phase = .selecting then enterPhase s c .ready [] else chgEffect s c []
    else .none s

/-- The selector position changed (R85, R87, R92, R99): own pantographs whose tag it does not serve are lowered. -/
def chgSelector (s : State) : Effect :=
  { st := s
    now :=
      (([Panto.p1, Panto.p2].filter fun p =>
          (s.drive p).state.up && !s.chg.selector.servesTag (s.drive p).tag).map fun p => .lower p .changeover)
        ++ [.admCheck, .heatClaim, .chgExits]
    later := [.startTest] }

/-- A request the controller waits on was cleared (R87, R92, R95, R151). -/
def chgCleared (s : State) (c : Cause) : Effect :=
  match c with
  | .wrongSystem =>
    if s.chg.phase = .mismatch && s.sense.confirmed = .dead then enterPhase s s.chg .clear [] else .none s
  | .selectorFail => { st := s, now := [.chgExits], later := [] }
  | _ => .none s

/-- The way back to CLOSE (R90). -/
def chgReopen (s : State) : Effect :=
  if s.chg.phase = .steady && !s.chg.close && s.view.demand = .raise && !s.view.conflictMark && !s.view.staleMark
      && decide (2 ≤ s.att.level) then
    enterPhase s s.chg .confirming []
  else .none s

/-! ## Events at the controller -/

/-- The transit timer expires (R98, R93). SELECTOR_FAIL is latched before CLEAR tests its exits. -/
def chgTransitTimeout (s : State) : Effect :=
  s.expire s.chg.transit fun s =>
    let c := s.chg.endTransit .lost
    if s.chg.phase = .selecting then enterPhase s c .clear [.latch .selectorFail]
    else chgLost s c

/-- The retarget pause ends: a fresh transit toward the target in force (R99). -/
def chgPauseEnd (s : State) : Effect :=
  s.expire s.chg.pause fun s =>
    match s.chg.target with
    | some side => chgEffect s (s.chg.startTransit s.now side) [.chgArrive]
    | none => .none (s.withChg { s.chg with pause := none })

/-- A selector that slips off its side leaves these phases (R100). -/
def Phase.needsSelector : Phase → Bool
  | .steady => true
  | .ready => true
  | .confirming => true
  | _ => false

/-- The end switches as they now read are taken (R98, R100, R149). -/
def chgReadingTaken (s : State) : Effect :=
  let c := s.chg
  match c.target with
  | some _ => { st := s, now := [.chgArrive, .recheck .selectorFail], later := [] }
  | none =>
    match c.selector with
    | .onSide side =>
      if c.validFor side then { st := s, now := [.recheck .selectorFail], later := [] }
      else
        let c := { c with selector := .lost }
        if c.phase.needsSelector then enterPhase s c .preparing [.latch .selectorFail]
        else chgLost s c
    | .lost =>
      if c.readingValid then
        chgEffect s { c with selector := .ofReading c.endAC c.endDC } [.recheck .selectorFail]
      else .none s
    | .moving => { st := s, now := [.recheck .selectorFail], later := [] }

/-- A change of a selector end switch (R100). -/
def chgEndSwitch (s : State) (endAC endDC : Bool) : Effect :=
  if s.chg.endAC = endAC ∧ s.chg.endDC = endDC then .none s
  else chgReadingTaken (s.withChg { s.chg with endAC := endAC, endDC := endDC })

/-- A change of the breaker feedback (R98, R103): the watch, the motor, and the readers; PREPARING is tested (R91). -/
def chgFeedback (s : State) (closed : Bool) : Effect :=
  if s.chg.closed = closed then .none s
  else
    let c := ({ s.chg with closed := closed }.judge s.now).driveMotor
    { st := s.withChg c
      now := agreeMsgs s.chg c
        ++ (if closed then [] else [.breakerOpened .p1, .breakerOpened .p2]) ++ [.heatClaim, .arcWatch, .chgPanto]
      later := [.startTest] }

/-- The disagreement timer expires (R103): BREAKER_FAIL, and a CLOSE request goes to OPEN. -/
def chgDisagreeExpiry (s : State) : Effect :=
  s.expire s.chg.disagree fun s =>
    let c := { s.chg with disagree := none }.setRequest s.now false
    { st := s.withChg c, now := [.latch .breakerFail] ++ agreeMsgs s.chg c, later := [] }

/-- The controller at the acceptance of a RESTART (R105). -/
def Changeover.restarted (c : Changeover) : Changeover :=
  { c.endTransit (.ofReading c.endAC c.endDC) with
    phase := .unset, close := false, disagree := none, lineDead := false }

end Sys2Proof.Machine
end

