-- ==== Sys2Proof/Machine/Drive.lean ====
section
/-! DEFINITION. The pantograph drive (chapter 1): the transitions of one drive record, and what the drive does with a
request of another block. -/

namespace Sys2Proof.Machine

/-! ## Head pressure (1.3, 1.5) -/

/-- The boost of R7. -/
def boostOf (contact : Bool) (mode : DeIce) (ice : IceLevel) : Nat :=
  if contact && ((mode = .auto && ice = .heavy) || (mode = .forced && ice ≠ .none)) then Config.boostPressure else 0

/-- base + boost − floor(v² × k_aero / 100000), clamped (R7). A difference below 0 is below the range and clamps to its
lower end either way. -/
def pressureTarget (c : Settings) (speed boost : Nat) : Nat :=
  clampTo Config.targetLow Config.targetHigh (c.basePress + boost - speed * speed * c.aero / 100000)

/-- The pressure target of a drive record in the station as it stands (R7). -/
def targetFor (s : State) (d : Drive) : Nat :=
  pressureTarget s.start.config s.view.heldValues.speed
    (boostOf (d.state = .contact) s.view.heldValues.deIce s.heat.level)

/-- The value of the setpoint at a moment: the ramp falls by 400 kPa per second (R8, entry 11). -/
def Setpoint.kPa (now : Time) : Setpoint → Nat
  | .held v => v
  | .ramp v since => v - (now - since) / Config.rampStep

/-- A recomputation of p_t (R7): a rise leaves the old value for the reference target (R14), and in RISING and CONTACT
the setpoint follows at once (R8). -/
def Drive.retarget (d : Drive) (now : Time) (t : Nat) : Drive :=
  { d with
    target := t
    oldTargets :=
      ((if d.target < t then [(now, d.target)] else []) ++ d.oldTargets).filter fun e =>
        decide (e.2 < t) && decide (now ≤ e.1 + Config.referenceSpan)
    setpoint := if d.state.up then .held t else d.setpoint }

/-- The reference target: the lowest value p_t has had over the last second (R14, entry 21). -/
def Drive.reference (d : Drive) (now : Time) : Nat :=
  (d.oldTargets.filter fun e => decide (now ≤ e.1 + Config.referenceSpan)).foldl (fun m e => min m e.2) d.target

/-- The drop threshold, 120 kPa below the reference target (R14). -/
def Drive.dropThreshold (d : Drive) (now : Time) : Nat := d.reference now - Config.dropMargin

/-! ## Stillness (R10) -/

/-- The newest angles whose spread, with those newer, stays below 8 counts. -/
def stillRun (low high : Nat) : List (Time × Nat) → List (Time × Nat)
  | [] => []
  | e :: rest =>
    if max high e.2 - min low e.2 < Config.stillCounts then e :: stillRun (min low e.2) (max high e.2) rest else []

/-- The angle enters the stillness history. -/
def Drive.pushStill (d : Drive) (now : Time) : Drive :=
  { d with still := (now, d.angle) :: stillRun d.angle d.angle d.still }

/-- The moment from which the angle has kept within the band. -/
def Drive.stillFrom (d : Drive) : Option Time := d.still.getLast?.map Prod.fst

/-- Still: over a span of 200 ms that ends now the spread is below 8 counts (R10). -/
def Drive.isStill (d : Drive) (now : Time) : Bool :=
  match d.stillFrom with
  | some m => decide (m + Config.stillSpan ≤ now)
  | none => false

/-- The angle lies inside the wire window (R3, R10). -/
def Drive.inWindow (d : Drive) (c : Settings) : Bool := decide (c.windowLow ≤ d.angle) && decide (d.angle ≤ c.windowHigh)

/-! ## Transitions of one drive record -/

/-- What every exit from RISING and CONTACT does (R10, R12, R14, R17). -/
def Drive.leaveRaised (d : Drive) : Drive :=
  { d with capture := false, armed := false, dropInterval := none, wireLoss := none, raiseTimer := none, still := [] }

/-- The setpoint begins its ramp to 0 (R8, R18). -/
def Drive.startRamp (d : Drive) (now : Time) : Drive :=
  { d with setpoint := match d.setpoint with
      | .held v => .ramp v now
      | r => r }

/-- Entry to DOWN (R8, R16, R20, R2). -/
def Drive.enterDown (d : Drive) : Drive :=
  { d with state := .down, tag := none, setpoint := .held 0, dump := false, lowerTimer := none, dropTimer := none,
           breakerWait := none }

/-- FALLING and DROPPED end in DOWN when the rest switch is closed (R16, R20). -/
def Drive.restTest (d : Drive) : Drive :=
  if (d.state.falling || d.state = .dropped) && d.restClosed then d.enterDown else d

/-- Entry to FALLING normal (R18, R20): the breaker wait runs only while the feedback shows closed. -/
def Drive.enterFallingNormal (d : Drive) (now : Time) (closed : Bool) : Drive :=
  let base := { d.leaveRaised with state := .fallingNormal, lowerTimer := some (now + Config.lowerNormalTime) }
  Drive.restTest
    (if closed then { base with breakerWait := some (now + Config.breakerWaitTime) }
     else { base.startRamp now with breakerWait := none })

/-- Entry to, or upgrade into, FALLING fast (R19). -/
def Drive.enterFallingFast (d : Drive) (now : Time) : Drive :=
  Drive.restTest
    { d.leaveRaised with
      state := .fallingFast, setpoint := .held 0, dump := true, breakerWait := none
      lowerTimer := some (now + Config.lowerFastTime) }

/-- A write asked of the lockout cell (R23): at once where the cell is idle, else when the write in progress ends
(entry 19). -/
def Drive.askWrite (d : Drive) (v : CellValue) : Drive :=
  if d.write.isNone then { d with write := some v } else { d with queued := some v }

/-- Auto-drop (R15, R16). -/
def Drive.enterDropped (d : Drive) (now : Time) : Drive :=
  Drive.restTest
    (Drive.askWrite
      { d.leaveRaised with
        state := .dropped, setpoint := .held 0, dump := true, lockout := true, outcome := .dropped
        dropTimer := some (now + Config.dropTime) }
      .locked)

/-- The creep test of DOWN (R6). -/
def Drive.creepTest (d : Drive) (now : Time) (closed : Bool) : Drive :=
  if d.state = .down && decide (Config.restThreshold < d.angle) then
    { d.enterFallingNormal now closed with outcome := .lowered }
  else d

/-- Entry to RISING (R9). The setpoint is the target, which `retarget` gives. -/
def Drive.enterRising (d : Drive) (now : Time) : Drive :=
  { d with state := .rising, dump := false, raiseTimer := some (now + Config.raiseTime), armed := false,
           dropInterval := none, still := [(now, d.angle)] }

/-- Entry to CONTACT (R10). -/
def Drive.enterContact (d : Drive) : Drive :=
  { d with state := .contact, captured := d.angle, capture := true, raiseTimer := none, outcome := .raised,
           wireLoss := none }

/-- The 100 ms interval of a wire loss begins at the first angle above the mark and is abandoned at the first at or
below it (R13). -/
def Drive.wireLossTest (d : Drive) (now : Time) : Drive :=
  if d.captured + Config.wireLossMargin < d.angle then
    { d with wireLoss := some (d.wireLoss.getD (now + Config.wireLossTime)) }
  else { d with wireLoss := none }

/-! ## The station around one drive record -/

/-- What a change of an own pantograph's state is delivered to (R2, R74, R91, R107, R126, R160). -/
def stateMsgs (p : Panto) (old new : PState) : List Msg :=
  [.due, .admPanto p old new, .chgPanto, .heatClaim, .arcWatch]

/-- Write a drive record with its target computed anew (R7), and deliver a change of state: `before` is sent ahead of
it, `rest` after it. -/
def driveEffect (s : State) (p : Panto) (d : Drive) (before rest : List Msg) : Effect :=
  let d' := d.retarget s.now (targetFor s d)
  if d'.state = (s.drive p).state then { st := s.setDrive p d', now := before ++ rest, later := [] }
  else
    { st := s.setDrive p d', now := before ++ stateMsgs p (s.drive p).state d'.state ++ rest, later := [.startTest] }

/-! ### Lowering requests (1.6) -/

def LowerSource.fast : LowerSource → Bool
  | .protectFast => true
  | _ => false

/-- The outcome a request records in RISING or CONTACT (1.6). -/
def LowerSource.outcome : LowerSource → POutcome
  | .yield => .yielded
  | .changeover => .lowered
  | .protectNormal => .protect
  | .protectFast => .protect
  | .isolate => .lowered

/-- The outcome the admission unit records where the request finds BIDDING or PREHEAT (R72, R73, R79, R21). -/
def LowerSource.returnOutcome : LowerSource → POutcome
  | .yield => .yielded
  | .changeover => .withheld
  | .protectNormal => .protect
  | .protectFast => .protect
  | .isolate => .lowered

/-- A lowering request acts by the state in which it finds the pantograph (R17, R18, R19). -/
def driveLower (s : State) (p : Panto) (src : LowerSource) : Effect :=
  let d := s.drive p
  if !d.fitted then .none s
  else match d.state with
    | .rising | .contact =>
      if src.fast then
        driveEffect s p { d.enterFallingFast s.now with outcome := src.outcome } [.chgOpen] []
      else
        driveEffect s p { d.enterFallingNormal s.now s.chg.closed with outcome := src.outcome } [] []
    | .fallingNormal => if src.fast then driveEffect s p (d.enterFallingFast s.now) [.chgOpen] [] else .none s
    | .bidding | .preheat => { st := s, now := [.admReturn p src.returnOutcome], later := [] }
    | .down | .fallingFast | .dropped => .none s

/-- A rise request of the admission unit (R9). A pantograph that has crept to the upper stop rises: R11 is tested at a change
of the angle (entry 42, the model's choice). -/
def driveRise (s : State) (p : Panto) : Effect :=
  if (s.drive p).state.inBid then driveEffect s p ((s.drive p).enterRising s.now) [] [] else .none s

/-- The admission unit returns the pantograph to DOWN (R71 to R73); the entry to DOWN tests for creep (R6). -/
def driveToDown (s : State) (p : Panto) (o : POutcome) : Effect :=
  if (s.drive p).state.inBid then
    driveEffect s p (Drive.creepTest { (s.drive p).enterDown with outcome := o } s.now s.chg.closed) [] []
  else .none s

/-- The admission unit starts a bid (R64): the valves stay as in DOWN, the outcome is left as it was. -/
def driveToBidding (s : State) (p : Panto) (x : System) : Effect :=
  if (s.drive p).state = .down && (s.drive p).fitted then
    driveEffect s p { s.drive p with state := .bidding, tag := some x } [] []
  else .none s

/-- The admission unit starts preheat (R75). -/
def driveToPreheat (s : State) (p : Panto) : Effect :=
  if (s.drive p).state = .bidding then driveEffect s p { s.drive p with state := .preheat } [] [] else .none s

/-- Recompute the pressure target (R7). -/
def drivePressure (s : State) (p : Panto) : Effect := driveEffect s p (s.drive p) [] []

/-- The breaker feedback shows open: a breaker wait ends there and the ramp begins (R18, R20). -/
def driveBreakerOpened (s : State) (p : Panto) : Effect :=
  if (s.drive p).state = .fallingNormal && (s.drive p).breakerWait.isSome then
    driveEffect s p (Drive.restTest { (s.drive p).startRamp s.now with breakerWait := none }) [] []
  else .none s

/-! ### Events at the drive -/

/-- A legal transition (R3, R4): one count, clamped, and not while the rest switch is closed; then the tests of the
state: creep (R6), upper stop (R11), contact (R10), wire loss (R13). A step that the clamp takes changes no angle and tests
nothing (entry 42, the model's choice). -/
def driveLegal (s : State) (p : Panto) (up : Bool) : Effect :=
  let d := s.drive p
  let a := if up then min Config.angleMax (d.angle + 1) else d.angle - 1
  if !d.fitted || d.restClosed || a = d.angle then .none s
  else
    let d := { d with angle := a }
    match d.state with
    | .down => driveEffect s p (d.creepTest s.now s.chg.closed) [] []
    | .rising =>
      if Config.upperStop ≤ a then
        driveEffect s p { d.enterFallingNormal s.now s.chg.closed with outcome := .noWire } [] [.latch .noWire]
      else
        let d := d.pushStill s.now
        if d.inWindow s.start.config && d.isStill s.now then driveEffect s p d.enterContact [] []
        else driveEffect s p d [] []
    | .contact => driveEffect s p (d.wireLossTest s.now) [] []
    | .bidding | .preheat | .fallingNormal | .fallingFast | .dropped => driveEffect s p d [] []

/-- The end of a 200 ms span without enough angle change (R10). -/
def driveStill (s : State) (p : Panto) : Effect :=
  if (s.drive p).fitted && (s.drive p).state = .rising then
    s.expire ((s.drive p).stillFrom.map (· + Config.stillSpan)) fun s =>
      if (s.drive p).inWindow s.start.config then driveEffect s p (s.drive p).enterContact [] [] else .none s
  else .none s

/-- An illegal transition (R5). -/
def driveIllegal (s : State) (p : Panto) : Effect :=
  let d := s.drive p
  if !d.fitted then .none s
  else
    let fault := decide (3 ≤ d.encHistory.length) && d.encHistory.all fun m => decide (s.now < m + Config.encoderSpan)
    driveEffect s p
      { d with encHistory := (s.now :: d.encHistory).take 3, quietTimer := s.after Config.quietTime }
      [] (if fault then [.latch .encoderFault] else [])

/-- The encoder quiet timer expires (R5). -/
def driveQuiet (s : State) (p : Panto) : Effect :=
  s.expire (s.drive p).quietTimer fun s =>
    driveEffect s p { s.drive p with quietTimer := none } [] [.recheck .encoderFault]

/-- The rest switch closes (R4, R13, R16, R20). -/
def driveRestClose (s : State) (p : Panto) : Effect :=
  let d := s.drive p
  if !d.fitted then .none s
  else
    let d := { d with restClosed := true, angle := 0 }
    match d.state with
    | .contact =>
      driveEffect s p { d.enterFallingNormal s.now s.chg.closed with outcome := .noWire }
        [] [.latch .noWire, .recheck .lowerStall]
    | .rising => driveEffect s p (d.pushStill s.now) [] [.recheck .lowerStall]
    | .down | .bidding | .preheat | .fallingNormal | .fallingFast | .dropped =>
      driveEffect s p d.restTest [] [.recheck .lowerStall]

/-- The rest switch opens (R4): the counter counts again from 0 at the next legal transition. -/
def driveRestOpen (s : State) (p : Panto) : Effect :=
  if (s.drive p).fitted then driveEffect s p { s.drive p with restClosed := false } [] [] else .none s

/-- The 100 ms above the mark complete (R13). -/
def driveWireLoss (s : State) (p : Panto) : Effect :=
  if (s.drive p).state = .contact then
    s.expire (s.drive p).wireLoss fun s =>
      driveEffect s p { (s.drive p).enterFallingNormal s.now s.chg.closed with outcome := .noWire }
        [] [.latch .noWire]
  else .none s

/-- A head pressure value; a missing one is 0 (R8, R14). -/
def drivePressureValue (s : State) (p : Panto) (v : Option Nat) : Effect :=
  let d := s.drive p
  let filled := decide (d.dropThreshold s.now ≤ v.getD 0)
  if !d.fitted then .none s
  else if d.armed then
    driveEffect s p
      { d with dropInterval :=
          if filled then none else some (d.dropInterval.getD (s.now + Config.dropIntervalTime)) } [] []
  else driveEffect s p { d with armed := d.state = .rising && filled } [] []

/-- One second after a rise of p_t the reference target takes the higher value (R14). -/
def driveReference (s : State) (p : Panto) : Effect :=
  s.expire ((s.drive p).oldTargets.getLast?.map fun e => e.1 + Config.referenceSpan) fun s =>
    driveEffect s p
      { s.drive p with
        oldTargets := (s.drive p).oldTargets.filter fun e => decide (s.now < e.1 + Config.referenceSpan) } [] []

/-- The drop interval of an armed watch completes (R15). -/
def driveAutoDrop (s : State) (p : Panto) : Effect :=
  if (s.drive p).armed && (s.drive p).state.up then
    s.expire (s.drive p).dropInterval fun s =>
      driveEffect s p ((s.drive p).enterDropped s.now) [.chgOpen] [.latch .pantoDrop]
  else .none s

/-- The raise timer expires (R12). -/
def driveRaiseTimeout (s : State) (p : Panto) : Effect :=
  if (s.drive p).state = .rising then
    s.expire (s.drive p).raiseTimer fun s =>
      driveEffect s p { (s.drive p).enterFallingNormal s.now s.chg.closed with outcome := .stall }
        [] [.latch .raiseStall]
  else .none s

/-- The breaker wait expires with the feedback still closed (R18, R20). -/
def driveWaitExpiry (s : State) (p : Panto) : Effect :=
  if (s.drive p).state = .fallingNormal then
    s.expire (s.drive p).breakerWait fun s =>
      driveEffect s p (Drive.restTest { (s.drive p).startRamp s.now with breakerWait := none })
        [] (if s.chg.close then [] else [.latch .breakerFail])
  else .none s

/-- The lower timer expires (R20). -/
def driveLowerTimeout (s : State) (p : Panto) : Effect :=
  if (s.drive p).state.falling then
    s.expire (s.drive p).lowerTimer fun s =>
      driveEffect s p { s.drive p with lowerTimer := none, dump := true, setpoint := .held 0 } [] [.latch .lowerStall]
  else .none s

/-- The drop timer expires (R16). -/
def driveDropTimeout (s : State) (p : Panto) : Effect :=
  if (s.drive p).state = .dropped then
    s.expire (s.drive p).dropTimer fun s =>
      driveEffect s p { s.drive p with dropTimer := none } [] [.latch .lowerStall]
  else .none s

/-- A lockout cell write completes and is read back (R23). -/
def driveCellComplete (s : State) (p : Panto) (readBack : CellValue) : Effect :=
  match (s.drive p).write with
  | none => .none s
  | some v =>
    driveEffect s p { s.drive p with cell := readBack, write := (s.drive p).queued, queued := none }
      [] (if readBack = v then [.metMark .lockoutStoreFault] else [.latch .lockoutStoreFault])

/-- The unlock enable latch's timer expires (R25). -/
def unlockExpiry (s : State) : Effect := s.expire s.unlock fun s => .none (s.withUnlock none)

/-! ### Orders at the drive (1.7, 1.8) -/

/-- The pantograph an order's argument names, where it is fitted (R21, R26). -/
def orderPanto (s : State) (arg : Nat) : Option Panto :=
  if arg = 1 && s.drive1.fitted then some .p1
  else if arg = 2 && s.drive2.fitted then some .p2
  else none

/-- ISOLATE of a fitted pantograph (R21). -/
def driveIsolate (s : State) (p : Panto) : Effect :=
  { st := s.setDrive p { s.drive p with isolate := true }, now := [.lower p .isolate, .heatClaim], later := [.startTest] }

/-- RESTORE of a fitted pantograph (R21). -/
def driveRestore (s : State) (p : Panto) : Effect :=
  { st := s.setDrive p { s.drive p with isolate := false }, now := [.heatClaim], later := [.startTest] }

/-- UNLOCK of a pantograph whose four tests hold (R26). -/
def driveUnlock (s : State) (p : Panto) : Effect :=
  { st := s.setDrive p ({ s.drive p with lockout := false }.askWrite .clear), now := [.heatClaim], later := [.startTest] }

/-- The drive at the acceptance of a RESTART (R29); `t` is the target at speed 0. -/
def Drive.restarted (d : Drive) (now : Time) (t : Nat) : Drive :=
  { d with outcome := .none, isolate := false, encHistory := [], quietTimer := none, capture := false, armed := false }.retarget
    now t

end Sys2Proof.Machine
end

