-- ==== Sys2Proof/Machine/Admission.lean ====
section
/-! DEFINITION. The admission unit (chapter 4): start conditions, bid window, admission test, preheat, returns, yield, peer
drop ahead. -/

namespace Sys2Proof.Machine

/-! ## The pantographs of the train as the station sees them (R45, R62) -/

/-- A pantograph as presented to the tests. -/
structure Presented where
  address  : Nat
  panto    : Panto
  state    : PState
  tag      : Option System
  position : Nat
  deriving DecidableEq, Repr

/-- An own pantograph as presented to the tests. -/
def ownPanto (s : State) (p : Panto) : Presented :=
  { address := s.start.address, panto := p, state := (s.drive p).state, tag := (s.drive p).tag,
    position := s.start.position p }

/-- The fitted own pantographs. -/
def ownPresented (s : State) : List Presented :=
  ([Panto.p1, Panto.p2].filter fun p => (s.drive p).fitted).map (ownPanto s)

/-- One pantograph of an entry, where it is presented: a fitted one of a fresh entry, a presumed-up one of a stale entry
(R45, R49). -/
def PeerEntry.presents (e : PeerEntry) (p : Panto) : Bool :=
  (e.record.panto p).headKind ≠ .none && (!e.stale || e.presumed p)

/-- The presented pantographs of an entry, positions clamped (R45, R49). -/
def PeerEntry.presented (e : PeerEntry) : List Presented :=
  ([Panto.p1, Panto.p2].filter e.presents).map fun p =>
    { address := e.address, panto := p, state := (e.record.panto p).state, tag := (e.record.panto p).tag,
      position := min Config.positionMax (e.record.panto p).position }

/-- Every pantograph of the train the station sees, own or peer. -/
def allPresented (s : State) : List Presented := ownPresented s ++ s.view.table.flatMap PeerEntry.presented

/-! ## Rank and spacing (R57, R68) -/

/-- The rank key (R57). -/
def rankKey (d : Direction) (position : Nat) : Nat :=
  match d with
  | .aLeading => position
  | .bLeading => Config.positionMax - position

/-- `x` has the better rank than `y` (R57): the larger key, then the smaller address, then P1 before P2. -/
def betterRank (d : Direction) (x y : Presented) : Bool :=
  let kx := rankKey d x.position
  let ky := rankKey d y.position
  decide (ky < kx) ||
    (kx = ky && (decide (x.address < y.address) || (x.address = y.address && x.panto = .p1 && y.panto = .p2)))

/-- The same pantograph of the train. -/
def Presented.same (x y : Presented) : Bool := x.address = y.address && x.panto = y.panto

/-- The distance between two pantographs (R68). -/
def distance (x y : Presented) : Nat := max x.position y.position - min x.position y.position

/-- The minimum spacing (R68). -/
def minSpacing (c : Settings) (speed : Nat) : Nat :=
  min Config.spacingMax (c.spacingBase + speed * c.spacingGain / 100)

/-- The minimum spacing now in force. -/
def State.spacing (s : State) : Nat := minSpacing s.start.config s.view.heldValues.speed

/-- The direction of the effective demand. -/
def State.direction (s : State) : Direction := s.view.heldValues.direction

/-! ## The tests -/

/-- The established set of a system (R62). -/
def establishedSet (s : State) (x : System) : List Presented :=
  (allPresented s).filter fun m => m.state.countsRaised && m.tag = some x

/-- The ahead set of a pantograph (R67). Its order by rank changes no test, so the list keeps the order of the view. -/
def aheadSet (s : State) (me : Presented) : List Presented :=
  (allPresented s).filter fun m =>
    !m.same me && m.tag = me.tag
      && (m.state.countsRaised || (m.state = .bidding && betterRank s.direction m me))

/-- Phases a fresh peer may announce under the dead-roof barrier (R69). -/
def Phase.setForSupply : Phase → Bool
  | .ready => true
  | .confirming => true
  | .steady => true
  | .mismatch => true
  | _ => false

/-- The dead-roof barrier holds (R69). A stale entry's held phase blocks it in exactly the other four phases. -/
def barrierHolds (s : State) : Bool :=
  s.sense.confirmed ≠ .dead || s.view.table.all fun e => e.record.phase.setForSupply

/-- The admission test of a bidder whose window has ended (R70). -/
def admissible (s : State) (p : Panto) : Bool :=
  let me := ownPanto s p
  match me.tag with
  | none => false
  | some x =>
    decide ((aheadSet s me).length < s.start.config.raiseLimit x)
      && (aheadSet s me).all (fun m => decide (s.spacing ≤ distance m me))
      && barrierHolds s

/-- The head heater of a pantograph is fitted (R123). -/
def headHeaterFitted (s : State) (p : Panto) : Bool := (s.drive p).fitted && s.start.headCode ≠ 0

/-- Preheat applies to an admitted bidder (R75). -/
def preheatApplies (s : State) (p : Panto) : Bool :=
  s.heat.level = .heavy && headHeaterFitted s p && !(s.heat.load (.head p)).failed
    && decide (0 < s.start.config.preheat)

/-- A raised own pantograph must yield (R78). -/
def mustYield (s : State) (p : Panto) : Bool :=
  let me := ownPanto s p
  match me.tag with
  | none => false
  | some x =>
    let better := (establishedSet s x).filter fun m => !m.same me && betterRank s.direction m me
    decide (s.start.config.raiseLimit x ≤ better.length) || better.any fun m => decide (distance m me < s.spacing)

/-- A peer drop ahead stands (R81). -/
def dropAheadStands (s : State) : Bool :=
  (ownPresented s).any fun me =>
    me.state.up && me.tag.isSome &&
      (s.view.table.filter fun e => !e.stale).any fun e =>
        e.presented.any fun m =>
          m.state = .dropped && m.tag = me.tag
            && decide (rankKey s.direction m.position < rankKey s.direction me.position)

/-- A pantograph is eligible to bid (R21). -/
def Drive.eligible (d : Drive) : Bool := d.fitted && !d.isolate && !d.lockout

/-- An own pantograph is a candidate for a bid of a system (R63). -/
def candidate (s : State) (x : System) (p : Panto) : Bool :=
  (s.drive p).state = .down && (s.drive p).eligible && (s.drive p).headKind.serves x

/-- The phases in which bids start (R63, R85). -/
def Phase.allowsBids : Phase → Bool
  | .steady => true
  | .ready => true
  | .confirming => true
  | _ => false

/-- A state that holds back the bid of the station (R63): BIDDING, PREHEAT, RISING, CONTACT or FALLING. -/
def PState.holdsBack (x : PState) : Bool := x.inBid || x.up || x.falling

/-- The start conditions for a demanded system, all but the demanded system being known (R63). -/
def startConditions (s : State) (x : System) : Bool :=
  s.view.demand = .raise && !s.view.conflictMark && !s.view.staleMark
    && decide (3 ≤ s.att.level) && s.start.mode = .run && s.chg.phase.allowsBids && s.chg.selector.serves x
    && !s.drive1.state.holdsBack && !s.drive2.state.holdsBack && s.adm.holdoff.isNone
    && decide ((establishedSet s x).length < s.start.config.raiseLimit x)
    && (candidate s x .p1 || candidate s x .p2)

/-- The pantograph that bids (R64). -/
def chosenBidder (s : State) (x : System) : Panto :=
  if candidate s x .p1 && candidate s x .p2 then
    if betterRank s.direction (ownPanto s .p1) (ownPanto s .p2) then .p1 else .p2
  else if candidate s x .p1 then .p1
  else .p2

/-! ## What the unit does -/

/-- Test the start conditions and start the bid they allow (R63, R64). -/
def admStart (s : State) : Effect :=
  match s.view.heldValues.system with
  | none => .none s
  | some x =>
    if startConditions s x then
      let p := chosenBidder s x
      { st := s.withAdm
          { s.adm with
            bidder := some p, openBid := some p, frameCount := 0, windowEnded := false
            windowTimer := s.after Config.windowTime, bidTimer := s.after Config.bidTime, bidStart := s.now }
        now := [.toBidding p x]
        later := [] }
    else .none s

/-- The bid of the unit's record ends (R74): no open bid, and 1 s of holdoff. -/
def Admission.endBid (a : Admission) (now : Time) : Admission :=
  { a with openBid := none, holdoff := some (now + Config.holdoffTime) }

/-- Every return from BIDDING or PREHEAT (R71, R72, R73, R79). The heated time keeps its stored total (entry 31, the model's
choice). -/
def admReturn (s : State) (p : Panto) (o : POutcome) : Effect :=
  if (s.drive p).state.inBid then
    { st := s.withAdm
        ({ s.adm with bidder := none, windowTimer := none, windowEnded := true, bidTimer := none, preheatTimer := none,
                      heatedSince := none }.endBid s.now)
      now := [.toDown p o]
      later := [] }
  else .none s

/-- The grounds of WITHHELD (R72). -/
def withholds (s : State) (p : Panto) : Bool :=
  s.view.demand ≠ .raise || s.view.staleMark || s.view.heldValues.system ≠ (s.drive p).tag || s.att.level = 2
    || !s.chg.phase.allowsBids || !s.chg.selector.servesTag (s.drive p).tag
    || ((s.drive p).state = .bidding && s.view.conflictMark)

/-- Test the grounds of the bid (R72, R73). -/
def admCheck (s : State) : Effect :=
  match s.adm.bidder with
  | none => .none s
  | some p =>
    if s.att.level ≤ 1 then admReturn s p .protect
    else if withholds s p then admReturn s p .withheld
    else .none s

/-- The rise request at the end of PREHEAT, or of a bid admitted without it (R70, R76). The heated time keeps its stored total
(entry 31, the model's choice). -/
def admRise (s : State) (p : Panto) : Effect :=
  { st := s.withAdm { s.adm with bidder := none, bidTimer := none, preheatTimer := none, heatedSince := none }
    now := [.rise p]
    later := [] }

/-- The admission test, and what an admitted bidder does (R70, R75). -/
def admTest (s : State) : Effect :=
  match s.adm.bidder with
  | none => .none s
  | some p =>
    if (s.drive p).state = .bidding && s.adm.windowEnded && admissible s p then
      if preheatApplies s p then
        { st := s.withAdm
            { s.adm with
              bidTimer := none, heated := 0
              preheatTimer := s.after (3 * s.start.config.preheat * Config.second)
              heatedSince := if (s.heat.load (.head p)).isOn then some s.now else none }
          now := [.toPreheat p]
          later := [] }
      else admRise s p
    else .none s

/-- The yield test (R79). -/
def admYield (s : State) : Effect :=
  { st := s
    now := ([Panto.p1, Panto.p2].filter fun p => (s.drive p).state.countsRaised && mustYield s p).map
      fun p => .lower p .yield
    later := [] }

/-- The drop-ahead evaluation (R81, R82). -/
def admDropAhead (s : State) : Effect :=
  let x := dropAheadStands s
  { st := s.withAdm { s.adm with dropAhead := x }
    now := if x then [.latch .peerDropAhead] else [.recheck .peerDropAhead]
    later := [] }

/-- An own pantograph changed its state (R74, R79, R81): the yield test before the peer drop ahead (entry 18, the model's
choice). -/
def admPanto (s : State) (p : Panto) (old new : PState) : Effect :=
  { st := if s.adm.openBid = some p && new.atRest then s.withAdm (s.adm.endBid s.now) else s
    now :=
      (if new = .preheat ∨ new = .rising then [.admYield] else [])
        ++ (if old.up || new.up then [.admDropAhead] else [])
    later := [] }

/-- The end of the bid window and the test that follows (R66). -/
def admWindowEnd (s : State) : Effect :=
  if s.adm.windowTimer.isNone && s.adm.frameCount = 2 && !s.adm.windowEnded then
    { st := s.withAdm { s.adm with windowEnded := true }, now := [.admTest], later := [] }
  else .none s

/-- A status frame was sent without collision; its snapshot showed the states given (R65, R66). -/
def admReport (s : State) (shown1 shown2 : PState) (taken : Time) : Effect :=
  match s.adm.bidder with
  | none => .none s
  | some p =>
    let shown := match p with
      | .p1 => shown1
      | .p2 => shown2
    if (s.drive p).state = .bidding && shown = .bidding && decide (s.adm.bidStart ≤ taken) then
      admWindowEnd (s.withAdm { s.adm with frameCount := min 2 (s.adm.frameCount + 1) })
    else .none s

/-- A report of a head heater's output (R76). -/
def admHead (s : State) (p : Panto) (on : Bool) : Effect :=
  if s.adm.bidder = some p && (s.drive p).state = .preheat then
    match s.adm.heatedSince with
    | none => if on then .none (s.withAdm { s.adm with heatedSince := some s.now }) else .none s
    | some m =>
      if on then .none s
      else .none (s.withAdm { s.adm with heated := s.adm.heated + (s.now - m), heatedSince := none })
  else .none s

/-! ## Events at the unit -/

/-- The window timer expires (R66). -/
def admWindowExpiry (s : State) : Effect :=
  s.expire s.adm.windowTimer fun s => admWindowEnd (s.withAdm { s.adm with windowTimer := none })

/-- The bid timer expires (R71). -/
def admBidTimeout (s : State) : Effect :=
  s.expire s.adm.bidTimer fun s =>
    match s.adm.bidder with
    | none => .none s
    | some p => if (s.drive p).state = .bidding then admReturn s p .notAdmitted else .none s

/-- The holdoff timer expires (R63). -/
def admHoldoffExpiry (s : State) : Effect :=
  s.expire s.adm.holdoff fun s =>
    { st := s.withAdm { s.adm with holdoff := none }, now := [], later := [.startTest] }

/-- The bidder in PREHEAT. -/
def State.preheating (s : State) : Option Panto := s.adm.bidder.filter fun p => (s.drive p).state = .preheat

/-- The preheat time of a configuration (R75). -/
def Settings.preheatTime (c : Settings) : Time := c.preheat * Config.second

/-- The heated time reaches the preheat time (R76). -/
def admHeatedReached (s : State) : Effect :=
  match s.preheating with
  | none => .none s
  | some p =>
    if s.start.config.preheatTime ≤ s.adm.heated then admRise s p
    else
      s.expire (s.adm.heatedSince.map (· + (s.start.config.preheatTime - s.adm.heated))) fun s => admRise s p

/-- The preheat timer expires (R76). -/
def admPreheatTimeout (s : State) : Effect :=
  match s.preheating with
  | none => .none s
  | some p => s.expire s.adm.preheatTimer fun s => admRise s p

end Sys2Proof.Machine
end

