-- ==== Sys2Proof/Machine/Heating.lean ====
section
/-! DEFINITION. The ice and heating unit (chapter 7): weather, ice index and level, claim, water-fill, apportioning, heater
feedback. -/

namespace Sys2Proof.Machine

/-! ## Assessment (7.2 to 7.4) -/

/-- A reading replaces the held value of its quantity, clamped (R117). -/
def Heating.reading (h : Heating) : Reading → Heating
  | .temperature x => { h with temperature := max (-400) (min 600 x) }
  | .humidity x => { h with humidity := (max 0 (min 100 x)).toNat }

/-- The sum of an assessment step (R118): index less decay, plus growth, plus the arc term. -/
def stepSum (index : Nat) (temperature : Int) (humidity arcs : Nat) : Nat :=
  let cold := (min (max (-temperature) 0) 150).toNat
  let wet := min (humidity - 70) 30
  index - (index + 63) / 64 + cold * wet + 64 * arcs

/-- The ice level from the level before and the index (R120). -/
def iceLevelAfter (old : IceLevel) (saturated : Bool) (index : Nat) : IceLevel :=
  if saturated then .heavy
  else if 250000 ≤ index then .heavy
  else if 187500 ≤ index then (if old = .heavy then .heavy else .light)
  else if 100000 ≤ index then .light
  else if 75000 ≤ index then (if old = .none then .none else .light)
  else .none

/-- Evaluate the level and hand on what changed (R120, R121, R122). -/
def iceEvaluate (s : State) (h : Heating) : Effect :=
  let level := iceLevelAfter h.level h.saturated h.index
  { st := s.withHeat { h with level := level }
    now :=
      (if level ≠ h.level then [.pressure .p1, .pressure .p2, .heatClaim] else [])
        ++ (if level = .heavy then [.latch .iceHeavy] else if h.level = .heavy then [.endOf .iceHeavy] else [])
    later := [] }

/-- One assessment step at the second report (R118, R119). -/
def heatStep (s : State) (arcs : Nat) : Effect :=
  let sum := stepSum s.heat.index s.heat.temperature s.heat.humidity arcs
  iceEvaluate s
    { s.heat with index := min Config.indexMax sum, saturated := s.heat.saturated || decide (Config.indexMax < sum) }

/-! ## Loads and claim (7.5, 7.6) -/

/-- The loads in the order of their names. -/
def allLoads : List Load := [.insulator, .head .p1, .head .p2]

/-- The rating of a load in units, 0 where it is not fitted (R123). -/
def rating (s : State) : Load → Nat
  | .insulator => 20 * s.start.insCode
  | .head p => if (s.drive p).fitted then 10 * s.start.headCode else 0

/-- A load is fitted (R123). -/
def loadFitted (s : State) (l : Load) : Bool := rating s l ≠ 0

/-- The de-ice mode and the ice level claim a load, before the removals of R124. -/
def modeClaims (s : State) (l : Load) : Bool :=
  match s.view.heldValues.deIce, l with
  | .off, _ => false
  | .auto, .insulator => s.heat.level ≠ .none
  | .auto, .head p => s.heat.level = .heavy && (s.drive p).eligible
  | .forced, .insulator => true
  | .forced, .head p => (s.drive p).fitted

/-- A pantograph in PREHEAT adds its head heater (R124). -/
def preheatClaims (s : State) : Load → Bool
  | .insulator => false
  | .head p => (s.drive p).state = .preheat

/-- A load is in the claimed set (R124). -/
def claimed (s : State) (l : Load) : Bool :=
  (modeClaims s l || preheatClaims s l) && loadFitted s l && !(s.heat.load l).failed

/-- The claim is 0 whatever the set (R125). -/
def claimBarred (s : State) : Bool :=
  decide (s.att.level ≤ 3) || !s.chg.closed || s.chg.selector = .moving || s.chg.selector = .lost

/-- The claim (R124, R125). -/
def claimOf (s : State) : Nat := if claimBarred s then 0 else ((allLoads.filter (claimed s)).map (rating s)).sum

/-! ## The grant (7.7) -/

/-- A claim put into an ascending list. -/
def insertClaim (c : Nat) : List Nat → List Nat
  | [] => [c]
  | x :: rest => if c ≤ x then c :: x :: rest else x :: insertClaim c rest

/-- The claims in ascending order (R127). -/
def sortClaims : List Nat → List Nat
  | [] => []
  | c :: rest => insertClaim c (sortClaims rest)

/-- The walk of R127 over the claims in ascending order, with the remainder `r`: each claim with its grant. The count m is
the number of claims left. -/
def fillWalk (r : Nat) : List Nat → List (Nat × Nat)
  | [] => []
  | c :: rest =>
    let share := r / (rest.length + 1)
    if c ≤ share then (c, c) :: fillWalk (r - c) rest else (c :: rest).map fun x => (x, share)

/-- The water-fill (R127): every claim with its grant, in ascending order. -/
def waterFill (budget : Nat) (claims : List Nat) : List (Nat × Nat) :=
  let l := sortClaims claims
  if claims.sum ≤ budget then l.map fun c => (c, c) else fillWalk budget l

/-- The grant of one claim of an allocation (R128); equal claims have equal grants. -/
def grantIn (budget : Nat) (claims : List Nat) (own : Nat) : Nat :=
  match (waterFill budget claims).find? fun e => e.1 = own with
  | some e => e.2
  | none => 0

/-- The claims of the peer table, clamped (R128, R49). -/
def peerClaims (s : State) : List Nat := s.view.table.map fun e => min Config.peerClaimMax e.record.claim

/-- The grant of an own claim (R128). -/
def grantOf (s : State) (own : Nat) : Nat := grantIn s.start.config.budget (own :: peerClaims s) own

/-! ## Apportioning (7.8) -/

/-- The place of a load in the priority of R130. -/
def loadPlace (s : State) : Load → Nat
  | .insulator => 2
  | .head p =>
    if (s.drive p).state = .preheat then 1
    else if (s.drive p).state.up then 3
    else match p with
      | .p1 => 4
      | .p2 => 5

/-- The claimed loads in the priority of R130. -/
def claimOrder (s : State) : List Load :=
  [1, 2, 3, 4, 5].flatMap fun k => allLoads.filter fun l => claimed s l && loadPlace s l = k

/-- What the apportioning decides for a load. -/
inductive Share where
  | off | full
  | part (duty : Nat)
  deriving DecidableEq, Repr

/-- The walk of R130: full on while the rating fits, then one duty, then OFF. -/
def apportionWalk (s : State) (remaining : Nat) : List Load → List (Load × Share)
  | [] => []
  | l :: rest =>
    if rating s l ≤ remaining then (l, .full) :: apportionWalk s (remaining - rating s l) rest
    else
      let duty := remaining * 100 / rating s l
      (if duty = 0 then [] else [(l, .part duty)])

/-- The share of a load; one that the walk does not name is OFF (R130). -/
def shareOf (s : State) (grant : Nat) (l : Load) : Share :=
  match (apportionWalk s grant (claimOrder s)).find? fun e => e.1 = l with
  | some e => e.2
  | none => .off

/-- A load takes its share (R130, R131): full on and OFF at once, PWM with a fresh period or, where it is in PWM, by its
pending duty (entry 16). -/
def LoadState.take (x : LoadState) (now : Time) : Share → LoadState
  | .off => { x with output := .off, onPart := false, pendingDuty := none, period := none }
  | .full => { x with output := .on, onPart := false, pendingDuty := none, period := none }
  | .part d =>
    match x.output with
    | .pwm cur => if d = x.pendingDuty.getD cur then x else { x with pendingDuty := some d }
    | .off | .on =>
      { x with output := .pwm d, onPart := true, pendingDuty := none, period := some (now + Config.pwmPeriod) }

/-- Output and feedback agree (R134). -/
def LoadState.agrees (x : LoadState) : Bool := x.isOn = x.feedback

/-- The feedback watch after a change of output or feedback (R134); a load that is not fitted has none. -/
def LoadState.judge (old x : LoadState) (fitted : Bool) (now : Time) : LoadState :=
  if fitted && (old.isOn ≠ x.isOn || old.feedback ≠ x.feedback) then
    { x with watch := if x.agrees then none else some (now + Config.feedbackTime) }
  else x

/-- The report of a head heater's change to the admission unit (R132). -/
def outputMsgs (l : Load) (old new : LoadState) : List Msg :=
  match l with
  | .insulator => []
  | .head p => if old.isOn = new.isOn then [] else [.admHead p new.isOn]

/-- Write one load with its watch judged, and report its change (R132, R134). -/
def loadEffect (s : State) (l : Load) (x : LoadState) (more : List Msg) : Effect :=
  let x' := LoadState.judge (s.heat.load l) x (loadFitted s l) s.now
  { st := s.withHeat (s.heat.setLoad l x'), now := outputMsgs l (s.heat.load l) x' ++ more, later := [] }

/-- A load after the apportioning of a grant (R130, R131, R133): while the force is held every output is OFF. -/
def Heating.apportioned (h : Heating) (s : State) (grant : Nat) (l : Load) : LoadState :=
  LoadState.judge (h.load l) ((h.load l).take s.now (if h.forceOff then .off else shareOf s grant l)) (loadFitted s l) s.now

/-- Write claim and grant and apportion the grant (R126, R128, R130). -/
def heatSpend (s : State) (claim grant : Nat) : Effect :=
  let i := s.heat.apportioned s grant .insulator
  let h1 := s.heat.apportioned s grant (.head .p1)
  let h2 := s.heat.apportioned s grant (.head .p2)
  { st := s.withHeat { s.heat with claim := claim, grant := grant, insulator := i, head1 := h1, head2 := h2 }
    now := outputMsgs (.head .p1) s.heat.head1 h1 ++ outputMsgs (.head .p2) s.heat.head2 h2
    later := [] }

/-- The grant once the claim is `claim`: computed anew where the claim differs from the one before, else as it stands
(R126). -/
def grantFor (s : State) (claim : Nat) : Nat := if claim = s.heat.claim then s.heat.grant else grantOf s claim

/-- Recompute the claim, with it the grant where the claim has changed, and the apportioning (R126, R128, R130). A claim
that stands leaves the grant to the events of R128. -/
def heatClaim (s : State) : Effect := heatSpend s (claimOf s) (grantFor s (claimOf s))

/-- Recompute the grant for the claim as it stands (R128). -/
def heatGrant (s : State) : Effect := heatSpend s s.heat.claim (grantOf s s.heat.claim)

/-- The effective level changed (R126, R133): the force is held at level 0, and the claim is recomputed. -/
def heatLevel (s : State) : Effect :=
  heatClaim (s.withHeat { s.heat with forceOff := s.att.level = 0 })

/-- The HEATER_FAULT request was cleared (R135). -/
def heatCleared (s : State) : Effect :=
  heatClaim (s.withHeat
    { s.heat with
      insulator := { s.heat.insulator with failed := false }
      head1 := { s.heat.head1 with failed := false }
      head2 := { s.heat.head2 with failed := false } })

/-! ## Events at the loads -/

/-- The PWM period of a load expires: a new period with any pending duty (R131). -/
def heatPeriod (s : State) (l : Load) : Effect :=
  match (s.heat.load l).output with
  | .pwm cur =>
    s.expire (s.heat.load l).period fun s =>
      let x := s.heat.load l
      loadEffect s l
        { x with output := .pwm (x.pendingDuty.getD cur), onPart := true, pendingDuty := none
                 period := x.period.map (· + Config.pwmPeriod) } []
  | .off | .on => .none s

/-- The on part of a PWM period ends, duty × 100 ms after the period began (R131). -/
def heatOnPartEnd (s : State) (l : Load) : Effect :=
  match (s.heat.load l).output with
  | .pwm cur =>
    if (s.heat.load l).onPart then
      s.expire ((s.heat.load l).period.map fun d => d - Config.pwmPeriod + cur * Config.pwmPerCent) fun s =>
        loadEffect s l { s.heat.load l with onPart := false } []
    else .none s
  | .off | .on => .none s

/-- A heater feedback input changes (R134). -/
def heatFeedback (s : State) (l : Load) (current : Bool) : Effect :=
  if loadFitted s l then loadEffect s l { s.heat.load l with feedback := current } [] else .none s

/-- The feedback disagreement timer of a load expires (R134, R135). -/
def heatDisagree (s : State) (l : Load) : Effect :=
  s.expire (s.heat.load l).watch fun s =>
    { st := s.withHeat (s.heat.setLoad l { s.heat.load l with watch := none, failed := true })
      now := [.latch .heaterFault, .heatClaim]
      later := [] }

/-! ## Start of the watches, restart, CLEAR_ARCS -/

/-- A load with its output OFF and its watch judged afresh (R137, R138). -/
def LoadState.restarted (x : LoadState) (fitted : Bool) (now : Time) : LoadState :=
  { LoadState.initial x.feedback with
    watch := if fitted && x.feedback then some (now + Config.feedbackTime) else none }

/-- Every load OFF with its watch judged afresh, and claim and grant at 0 until they are recomputed (7.1, R137, R138). -/
def Heating.loadsRestarted (h : Heating) (s : State) : Heating :=
  { h with
    claim := 0
    grant := 0
    insulator := h.insulator.restarted (loadFitted s .insulator) s.now
    head1 := h.head1.restarted (loadFitted s (.head .p1)) s.now
    head2 := h.head2.restarted (loadFitted s (.head .p2)) s.now
    forceOff := false }

/-- CLEAR_ARCS at the unit (R136): the flag is cleared and the level evaluated at once. -/
def heatClearArcs (s : State) : Effect := iceEvaluate s { s.heat with saturated := false }

end Sys2Proof.Machine
end

