-- ==== Sys2Proof/Machine/Operands.lean ====
section
/-! DEFINITION. The operands of the frame commands: code sets, byte layouts, CRC, the checks of a received frame, and the
frame of each record (9.2 to 9.4). -/

namespace Sys2Proof.Machine

/-! ## Code sets (9.4) -/

def StartMode.code : StartMode → Nat
  | .listen => 0 | .adopt => 1 | .run => 2

def StartMode.ofCode : Nat → Option StartMode
  | 0 => some .listen | 1 => some .adopt | 2 => some .run | _ => none

def ConfigState.code : ConfigState → Nat
  | .unfrozen => 0 | .frozenConsist => 1 | .frozenDefault => 2

def ConfigState.ofCode : Nat → Option ConfigState
  | 0 => some .unfrozen | 1 => some .frozenConsist | 2 => some .frozenDefault | _ => none

def Phase.code : Phase → Nat
  | .unset => 0 | .steady => 1 | .preparing => 2 | .clear => 3 | .selecting => 4 | .ready => 5 | .confirming => 6
  | .mismatch => 7

def Phase.ofCode : Nat → Option Phase
  | 0 => some .unset | 1 => some .steady | 2 => some .preparing | 3 => some .clear | 4 => some .selecting
  | 5 => some .ready | 6 => some .confirming | 7 => some .mismatch | _ => none

def LineClass.code : LineClass → Nat
  | .dead => 0 | .sys .ac25 => 1 | .sys .ac15 => 2 | .sys .dc3 => 3 | .sys .dc1k5 => 4 | .unknown => 5 | .over => 6

def LineClass.ofCode : Nat → Option LineClass
  | 0 => some .dead | 1 => some (.sys .ac25) | 2 => some (.sys .ac15) | 3 => some (.sys .dc3)
  | 4 => some (.sys .dc1k5) | 5 => some .unknown | 6 => some .over | _ => none

def Selector.code : Selector → Nat
  | .onSide .ac => 0 | .onSide .dc => 1 | .moving => 2 | .lost => 3

def Selector.ofCode : Nat → Option Selector
  | 0 => some (.onSide .ac) | 1 => some (.onSide .dc) | 2 => some .moving | 3 => some .lost | _ => none

/-- The codes of a two-valued field: 0 and 1. -/
def flagCode (b : Bool) : Nat := if b then 1 else 0

def flagOfCode : Nat → Option Bool
  | 0 => some false | 1 => some true | _ => none

def HeadKind.code : HeadKind → Nat
  | .none => 0 | .ac => 1 | .dc => 2

def HeadKind.ofCode : Nat → Option HeadKind
  | 0 => some .none | 1 => some .ac | 2 => some .dc | _ => Option.none

def PState.code : PState → Nat
  | .down => 0 | .bidding => 1 | .preheat => 2 | .rising => 3 | .contact => 4 | .fallingNormal => 5
  | .fallingFast => 6 | .dropped => 7

def PState.ofCode : Nat → Option PState
  | 0 => some .down | 1 => some .bidding | 2 => some .preheat | 3 => some .rising | 4 => some .contact
  | 5 => some .fallingNormal | 6 => some .fallingFast | 7 => some .dropped | _ => none

def System.code : System → Nat
  | .ac25 => 1 | .ac15 => 2 | .dc3 => 3 | .dc1k5 => 4

/-- A system tag or a demanded system; 0 is none. -/
def tagCode : Option System → Nat
  | none => 0
  | some x => x.code

def tagOfCode : Nat → Option (Option System)
  | 0 => some none | 1 => some (some .ac25) | 2 => some (some .ac15) | 3 => some (some .dc3)
  | 4 => some (some .dc1k5) | _ => none

def POutcome.code : POutcome → Nat
  | .none => 0 | .raised => 1 | .notAdmitted => 2 | .yielded => 3 | .withheld => 4 | .noWire => 5 | .stall => 6
  | .dropped => 7 | .lowered => 8 | .protect => 9

def POutcome.ofCode : Nat → Option POutcome
  | 0 => some .none | 1 => some .raised | 2 => some .notAdmitted | 3 => some .yielded | 4 => some .withheld
  | 5 => some .noWire | 6 => some .stall | 7 => some .dropped | 8 => some .lowered | 9 => some .protect
  | _ => Option.none

def IceLevel.code : IceLevel → Nat
  | .none => 0 | .light => 1 | .heavy => 2

def IceLevel.ofCode : Nat → Option IceLevel
  | 0 => some .none | 1 => some .light | 2 => some .heavy | _ => Option.none

def Demand.code : Demand → Nat
  | .lower => 0 | .raise => 1 | .prepare => 2

def Demand.ofCode : Nat → Option Demand
  | 0 => some .lower | 1 => some .raise | 2 => some .prepare | _ => none

def Direction.code : Direction → Nat
  | .aLeading => 0 | .bLeading => 1

def Direction.ofCode : Nat → Option Direction
  | 0 => some .aLeading | 1 => some .bLeading | _ => none

def DeIce.code : DeIce → Nat
  | .off => 0 | .auto => 1 | .forced => 2

def DeIce.ofCode : Nat → Option DeIce
  | 0 => some .off | 1 => some .auto | 2 => some .forced | _ => none

def OrderKind.code : OrderKind → Nat
  | .ackCause => 1 | .isolate => 2 | .restore => 3 | .unlockEnable => 4 | .unlock => 5 | .clearArcs => 6 | .restart => 7

def OrderKind.ofCode : Nat → Option OrderKind
  | 1 => some .ackCause | 2 => some .isolate | 3 => some .restore | 4 => some .unlockEnable | 5 => some .unlock
  | 6 => some .clearArcs | 7 => some .restart | _ => none

/-- The last order kind of a status frame; 0 is none. -/
def lastKindCode : Option OrderKind → Nat
  | none => 0
  | some k => k.code

def lastKindOfCode (n : Nat) : Option (Option OrderKind) := if n = 0 then some none else (OrderKind.ofCode n).map some

def OrderOutcome.code : OrderOutcome → Nat
  | .done => 1 | .refusedState => 2 | .refusedBusy => 3 | .refusedNotEnabled => 4 | .refusedCab => 5 | .refusedArg => 6

def OrderOutcome.ofCode : Nat → Option OrderOutcome
  | 1 => some .done | 2 => some .refusedState | 3 => some .refusedBusy | 4 => some .refusedNotEnabled
  | 5 => some .refusedCab | 6 => some .refusedArg | _ => none

/-- The last order outcome of a status frame; 0 is none. -/
def lastOutcomeCode : Option OrderOutcome → Nat
  | none => 0
  | some o => o.code

def lastOutcomeOfCode (n : Nat) : Option (Option OrderOutcome) :=
  if n = 0 then some none else (OrderOutcome.ofCode n).map some

def cabCode : CabEnd → Nat
  | .a => 1 | .b => 2

def cabOfCode : Nat → Option CabEnd
  | 1 => some .a | 2 => some .b | _ => none

/-! ## Bytes -/

/-- A number in one byte. -/
def byteOf (n : Nat) : Byte := BitVec.ofNat 8 n

/-- Two fields in one byte, the first in the high four bits (9.4). -/
def nibbles (high low : Nat) : Byte := BitVec.ofNat 8 (16 * high + low)

def highNibble (b : Byte) : Nat := b.toNat / 16
def lowNibble (b : Byte) : Nat := b.toNat % 16

/-- A number in two bytes, high byte first (R154). -/
def twoBytes (n : Nat) : List Byte := [byteOf (n / 256), byteOf n]

def ofTwo (high low : Byte) : Nat := 256 * high.toNat + low.toNat

/-- A cause set in three bytes, high byte first; its bit 23 is unused and sent as 0 (9.4). -/
def causeBytes (x : CauseSet) : List Byte :=
  let n := x.toNat % 2 ^ 23
  [byteOf (n / 65536), byteOf (n / 256), byteOf n]

/-- The cause set of three bytes; bit 23 is not read (R157). -/
def causesOf (high mid low : Byte) : CauseSet :=
  BitVec.ofNat 24 ((65536 * high.toNat + 256 * mid.toNat + low.toNat) % 2 ^ 23)

/-- Byte `i` of a list. -/
def byteAt (l : List Byte) (i : Nat) : Byte := l.getD i 0

/-! ## CRC (R156) -/

/-- One bit of the CRC: the register is shifted, and combined with the polynomial where the bit shifted out differs from
the data bit. -/
def crcBit (r : BitVec 16) (d : Bool) : BitVec 16 := if r.msb = d then r <<< 1 else (r <<< 1) ^^^ 0x3D65#16

/-- One byte, most significant bit first. -/
def crcByte (r : BitVec 16) (b : Byte) : BitVec 16 :=
  [7, 6, 5, 4, 3, 2, 1, 0].foldl (fun r i => crcBit r (b.getLsbD i)) r

/-- The CRC of the bytes before it (R156). -/
def crc (l : List Byte) : BitVec 16 := l.foldl crcByte 0xFFFF#16

/-! ## The bodies (9.4) -/

def PantoRecord.bytes (r : PantoRecord) : List Byte :=
  [nibbles r.headKind.code r.state.code, byteOf (tagCode r.tag)] ++ twoBytes r.position
    ++ [byteOf (128 * flagCode r.isolate + 64 * flagCode r.lockout + 32 * flagCode r.capture + r.outcome.code),
        byteOf r.arcs]

/-- The pantograph record that stands at byte `i` of a status body. -/
def pantoAt (l : List Byte) (i : Nat) : Option PantoRecord := do
  let headKind ← HeadKind.ofCode (highNibble (byteAt l i))
  let state ← PState.ofCode (lowNibble (byteAt l i))
  let tag ← tagOfCode (byteAt l (i + 1)).toNat
  let outcome ← POutcome.ofCode (lowNibble (byteAt l (i + 4)))
  return {
    headKind := headKind, state := state, tag := tag, position := ofTwo (byteAt l (i + 2)) (byteAt l (i + 3))
    isolate := (byteAt l (i + 4)).getLsbD 7, lockout := (byteAt l (i + 4)).getLsbD 6
    capture := (byteAt l (i + 4)).getLsbD 5, outcome := outcome, arcs := (byteAt l (i + 5)).toNat }

/-- The status body, 28 bytes. -/
def StatusRecord.bytes (r : StatusRecord) : List Byte :=
  [nibbles r.startMode.code r.configState.code, byteOf r.phase.code, nibbles r.confirmed.code r.selector.code,
   nibbles (flagCode r.close) (flagCode r.closed)]
    ++ r.panto1.bytes ++ r.panto2.bytes ++ twoBytes r.claim ++ twoBytes r.grant
    ++ [nibbles r.iceLevel.code (flagCode r.saturated), byteOf r.level, byteOf r.leading] ++ causeBytes r.detected
    ++ [byteOf (lastKindCode r.lastOrder), byteOf (lastOutcomeCode r.lastOutcome)]

/-- The status record of a body, where every enumerated field holds a code of its set (R157). -/
def statusOf (l : List Byte) : Option StatusRecord := do
  let startMode ← StartMode.ofCode (highNibble (byteAt l 0))
  let configState ← ConfigState.ofCode (lowNibble (byteAt l 0))
  let phase ← Phase.ofCode (byteAt l 1).toNat
  let confirmed ← LineClass.ofCode (highNibble (byteAt l 2))
  let selector ← Selector.ofCode (lowNibble (byteAt l 2))
  let close ← flagOfCode (highNibble (byteAt l 3))
  let closed ← flagOfCode (lowNibble (byteAt l 3))
  let panto1 ← pantoAt l 4
  let panto2 ← pantoAt l 10
  let iceLevel ← IceLevel.ofCode (highNibble (byteAt l 20))
  let saturated ← flagOfCode (lowNibble (byteAt l 20))
  let lastOrder ← lastKindOfCode (byteAt l 26).toNat
  let lastOutcome ← lastOutcomeOfCode (byteAt l 27).toNat
  return {
    startMode := startMode, configState := configState, phase := phase, confirmed := confirmed, selector := selector
    close := close, closed := closed, panto1 := panto1, panto2 := panto2
    claim := ofTwo (byteAt l 16) (byteAt l 17), grant := ofTwo (byteAt l 18) (byteAt l 19)
    iceLevel := iceLevel, saturated := saturated, level := (byteAt l 21).toNat, leading := (byteAt l 22).toNat
    detected := causesOf (byteAt l 23) (byteAt l 24) (byteAt l 25), lastOrder := lastOrder, lastOutcome := lastOutcome }

/-- Bytes 8..27 of a consist body. -/
def Settings.bytes (c : Settings) : List Byte :=
  twoBytes c.budget ++ twoBytes c.carLength ++ twoBytes c.spacingBase
    ++ [byteOf c.spacingGain, nibbles c.limitAC25 c.limitAC15, nibbles c.limitDC3 c.limitDC1K5] ++ twoBytes c.basePress
    ++ [byteOf c.aero] ++ twoBytes c.windowLow ++ twoBytes c.windowHigh ++ [byteOf c.preheat] ++ causeBytes c.enables

/-- The configuration block of a consist body of 28 bytes; its fields are numbers and are not checked. -/
def settingsOf (l : List Byte) : Settings :=
  { budget := ofTwo (byteAt l 8) (byteAt l 9), carLength := ofTwo (byteAt l 10) (byteAt l 11)
    spacingBase := ofTwo (byteAt l 12) (byteAt l 13), spacingGain := (byteAt l 14).toNat
    limitAC25 := highNibble (byteAt l 15), limitAC15 := lowNibble (byteAt l 15)
    limitDC3 := highNibble (byteAt l 16), limitDC1K5 := lowNibble (byteAt l 16)
    basePress := ofTwo (byteAt l 17) (byteAt l 18), aero := (byteAt l 19).toNat
    windowLow := ofTwo (byteAt l 20) (byteAt l 21), windowHigh := ofTwo (byteAt l 22) (byteAt l 23)
    preheat := (byteAt l 24).toNat, enables := causesOf (byteAt l 25) (byteAt l 26) (byteAt l 27) }

/-- The consist body, 8 or 28 bytes. -/
def ConsistRecord.bytes (r : ConsistRecord) : List Byte :=
  [nibbles (flagCode r.active) r.demand.code, byteOf (tagCode r.system), nibbles r.direction.code r.deIce.code]
    ++ twoBytes r.speed ++ twoBytes r.marker
    ++ match r.block with
      | none => [byteOf 0]
      | some c => byteOf 1 :: c.bytes

/-- The consist record of a body, where its codes are in their sets and its length is that of its configuration present
byte (R157). -/
def consistOf (l : List Byte) : Option ConsistRecord := do
  let active ← flagOfCode (highNibble (byteAt l 0))
  let demand ← Demand.ofCode (lowNibble (byteAt l 0))
  let system ← tagOfCode (byteAt l 1).toNat
  let direction ← Direction.ofCode (highNibble (byteAt l 2))
  let deIce ← DeIce.ofCode (lowNibble (byteAt l 2))
  let present ← flagOfCode (byteAt l 7).toNat
  if l.length = (if present then 28 else 8) then
    return {
      active := active, demand := demand, system := system, direction := direction, deIce := deIce
      speed := ofTwo (byteAt l 3) (byteAt l 4), marker := ofTwo (byteAt l 5) (byteAt l 6)
      block := if present then some (settingsOf l) else none }
  else none

/-- The order body, 3 bytes. -/
def OrderRecord.bytes (o : OrderRecord) : List Byte := [byteOf o.target, byteOf o.kind.code, byteOf o.arg]

/-! ## Whole frames -/

/-- The envelope of R159 around a body. -/
def frameOf (kind sender : Nat) (body : List Byte) : List Byte :=
  let l := [byteOf kind, byteOf sender, byteOf body.length] ++ body
  l ++ twoBytes (crc l).toNat

/-- The frame of a record, as its sender sends it (R159). -/
def ValidFrame.bytes : ValidFrame → List Byte
  | .status sender r => frameOf 1 sender r.bytes
  | .consist sender r => frameOf 2 (cabCode sender) r.bytes
  | .order o => frameOf 3 (cabCode o.sender) o.bytes

/-- The body of a frame that was read to its end by its own length byte. -/
def bodyOf (f : List Byte) : List Byte := (f.drop 3).take (byteAt f 2).toNat

/-- The CRC of a frame is good (R156). -/
def crcGood (f : List Byte) : Bool :=
  let n := (byteAt f 2).toNat
  (crc (f.take (n + 3))).toNat = ofTwo (byteAt f (n + 3)) (byteAt f (n + 4))

/-- The kind, sender and body of a frame, where they pass R157. -/
def contentOf (kind sender : Nat) (body : List Byte) : Option ValidFrame :=
  match kind with
  | 1 => if body.length = 28 ∧ 1 ≤ sender ∧ sender ≤ 16 then (statusOf body).map (.status sender) else none
  | 2 => do
    let e ← cabOfCode sender
    let r ← consistOf body
    return .consist e r
  | 3 => do
    let e ← cabOfCode sender
    let k ← OrderKind.ofCode (byteAt body 1).toNat
    if body.length = 3 then
      return .order { sender := e, target := (byteAt body 0).toNat, kind := k, arg := (byteAt body 2).toNat }
    else none
  | _ => none

/-- A received frame, checked (R155, R157): it is whole by its own length byte, its CRC is good, and its fields pass. -/
def parseFrame (f : List Byte) : Option ValidFrame :=
  if f.length = (byteAt f 2).toNat + 5 ∧ crcGood f then contentOf (byteAt f 0).toNat (byteAt f 1).toNat (bodyOf f)
  else none

/-! ## Records that fit their fields -/

def PantoRecord.fits (r : PantoRecord) : Bool := decide (r.position < 65536) && decide (r.arcs < 256)

/-- A cause set whose unused bit is 0. -/
def causesFit (x : CauseSet) : Bool := decide (x.toNat < 2 ^ 23)

/-- Every number of the record fits its field of the status body. -/
def StatusRecord.fits (r : StatusRecord) : Bool :=
  r.panto1.fits && r.panto2.fits && decide (r.claim < 65536) && decide (r.grant < 65536) && decide (r.level < 256)
    && decide (r.leading < 256) && causesFit r.detected

def Settings.fits (c : Settings) : Bool :=
  decide (c.budget < 65536) && decide (c.carLength < 65536) && decide (c.spacingBase < 65536)
    && decide (c.spacingGain < 256) && decide (c.limitAC25 < 16) && decide (c.limitAC15 < 16)
    && decide (c.limitDC3 < 16) && decide (c.limitDC1K5 < 16) && decide (c.basePress < 65536) && decide (c.aero < 256)
    && decide (c.windowLow < 65536) && decide (c.windowHigh < 65536) && decide (c.preheat < 256)
    && causesFit c.enables

def ConsistRecord.fits (r : ConsistRecord) : Bool :=
  decide (r.speed < 65536) && decide (r.marker < 65536) && (r.block.map Settings.fits).getD true

/-- Every field of a frame's record fits its place, and a status sender is an address. -/
def ValidFrame.fits : ValidFrame → Bool
  | .status sender r => decide (1 ≤ sender) && decide (sender ≤ 16) && r.fits
  | .consist _ r => r.fits
  | .order o => decide (o.target < 256) && decide (o.arg < 256)

end Sys2Proof.Machine
end

