-- ==== Sys2Proof/Machine/Port.lean ====
section
/-! DEFINITION. The roof line port's sending side and its watch of the line (9.2, 9.5, 9.6, 9.8): status frames due,
attempts, snapshots, collisions, success, line fault. -/

namespace Sys2Proof.Machine

/-! ## Due events (R160) -/

/-- A status frame falls due, by a change or by the cadence (R160, R169). The cadence lifts the wait of a frame that
waits for its spacing. -/
def Port.due (x : Port) (mode : StartMode) (byChange : Bool) : Port :=
  if mode = .listen then x
  else if x.frame = .none then
    { x with frame := .waiting, byChange := byChange, attempts := 0, snapshot := none, outdated := false }
  else { x with byChange := x.byChange && byChange, outdated := x.outdated || x.snapshot.isSome }

/-- A status frame falls due at the station (R160). -/
def portDue (s : State) (byChange : Bool) : State := s.withPort (s.port.due s.start.mode byChange)

/-- The cadence timer expires (R160). -/
def portCadence (s : State) : Effect :=
  match s.port.cadence with
  | .running d =>
    let s := s.advance d
    .none (portDue (s.withPort { s.port with cadence := .expired }) false)
  | .expired | .stopped => .none s

/-- The spacing timer is over (R160). -/
def portSpacing (s : State) : Effect :=
  s.expire s.port.spacing fun s => .none (s.withPort { s.port with spacing := none })

/-! ## The snapshot (R161) -/

/-- What is sent for a pantograph that is not fitted (9.4). -/
def PantoRecord.notFitted : PantoRecord :=
  { headKind := .none, state := .down, tag := none, position := 0, isolate := false, lockout := false, capture := false,
    outcome := .none, arcs := 0 }

/-- The pantograph record of an own pantograph (9.4). -/
def pantoRecord (s : State) (p : Panto) : PantoRecord :=
  let d := s.drive p
  if d.fitted then
    { headKind := d.headKind, state := d.state, tag := d.tag, position := s.start.position p, isolate := d.isolate,
      lockout := d.lockout, capture := d.capture, outcome := d.outcome, arcs := (s.arc.channel p).arcs }
  else .notFitted

/-- The status content of the station as it stands (R161). -/
def statusOfStation (s : State) : StatusRecord :=
  { startMode := s.start.mode, configState := s.start.configState, phase := s.chg.phase, confirmed := s.sense.confirmed,
    selector := s.chg.selector, close := s.chg.close, closed := s.chg.closed, panto1 := pantoRecord s .p1,
    panto2 := pantoRecord s .p2, claim := s.heat.claim, grant := s.heat.grant, iceLevel := s.heat.level,
    saturated := s.heat.saturated, level := s.att.level, leading := s.att.leading, detected := s.att.detected,
    lastOrder := s.port.lastOrder, lastOutcome := s.port.lastOutcome }

/-- The snapshot an attempt sends (R161): the one it finds, unless there is none or it is outdated. -/
def nextSnapshot (s : State) : Snapshot :=
  match s.port.snapshot with
  | some x => if s.port.outdated then { record := statusOfStation s, taken := s.now } else x
  | none => { record := statusOfStation s, taken := s.now }

/-- The bytes of the status frame an attempt sends (R159). -/
def Snapshot.frame (x : Snapshot) (address : Nat) : List Byte := ValidFrame.bytes (.status address x.record)

/-! ## The line measures (R154) -/

/-- The bits of one byte on the line (R154): a driven start bit, the data bits from the most significant, an idle stop bit;
`true` is the idle level. -/
def byteBits (b : Byte) : List Bool :=
  false :: (List.range 8).map (fun i => b.toNat.testBit (7 - i)) ++ [true]

/-- The bits of a frame (R154): its bytes follow one another without a gap. -/
def frameBits (frame : List Byte) : List Bool := frame.flatMap byteBits

/-- How many bits at the end of some bits stand at the idle level. -/
def idleRun (bits : List Bool) : Nat := (bits.reverse.takeWhile id).length

/-- The time some bytes take on the line (R154). -/
def byteTime (bytes : Nat) : Time := 10 * Config.bitTime * bytes

/-- The idle measure in bit times (R154). While an own attempt is in SENDING the line is driven again and again, and the
measure counts as 0 (entry 14). -/
def Port.idleBits (x : Port) (now : Time) : Nat :=
  if x.frame = .sending then 0 else (now - x.idleFrom) / Config.bitTime

/-- The frame's bits have ended on the line at the moment `now` (R154): the idle measure counts from the last driven one,
and the line is active, at the latest from the frame's start bit. -/
def Port.carried (x : Port) (now : Time) (frame : List Byte) : Port :=
  { x with
    idleFrom := now - Config.bitTime * idleRun (frameBits frame)
    activeFrom := some (x.activeFrom.getD (now - byteTime frame.length)) }

/-! ## Attempts (R162, R163) -/

/-- The idle bit times an attempt needs (R162). -/
def idleNeeded (attempts address : Nat) : Nat :=
  if attempts = 0 then Config.idleBitsFirst else Config.idleBitsFirst + Config.idleBitsPerAddress * address

/-- The conditions of R162 for a frame in WAITING. The line has become idle, and the idle measure has reached what a first
attempt or a retry needs. -/
def mayAttempt (s : State) : Bool :=
  s.port.frame = .waiting && s.start.mode ≠ .listen && !s.port.hold && s.port.reception.isNone
    && s.port.activeFrom.isNone && decide (idleNeeded s.port.attempts s.start.address ≤ s.port.idleBits s.now)
    && (!s.port.byChange || s.port.spacing.isNone)

/-- An attempt begins (R160, R161, R162): its first start bit drives the line. A retry that takes a fresh snapshot answers a
cadence expiry that met it, and leaves the cadence expired (entry 43, the model's choice). -/
def portAttempt (s : State) : Effect :=
  if mayAttempt s then
    let x := s.port
    .none (s.withPort
      { x with
        frame := .sending, snapshot := some (nextSnapshot s), outdated := false
        cadence := if x.attempts = 0 then .running (s.now + Config.cadenceTime) else x.cadence
        spacing := if x.attempts = 0 then s.after Config.spacingTime else x.spacing
        activeFrom := some s.now })
  else .none s

/-- What the port has read of the frame on the line when it stops at a bit of its own (R158, entry 34): the bytes before
it. A start bit read idle and a stop bit read driven end that reception (R155). -/
def readBefore (bit : Nat) (frame : List Byte) : Option (List Byte) :=
  if bit % 10 = 0 ∨ bit % 10 = 9 then none else some (frame.take (bit / 10))

/-- The line measures at a collision (R154, R162): a bit sent idle reads driven, so the line is driven now; a bit sent driven
reads idle, so the line was last driven before it, by the attempt; at the very first bit the attempt never drove it, and the
line is idle as it was. -/
def Port.stopped (x : Port) (now : Time) (bit : Nat) (frame : List Byte) : Port :=
  if (frameBits frame)[bit]?.getD true then { x with idleFrom := now }
  else if bit = 0 then { x with activeFrom := none, hold := false }
  else { x with idleFrom := now - Config.bitTime * idleRun ((frameBits frame).take bit) }

/-- The frame is abandoned (R163, R165). A cadence expiry that came while it retried had set the outdated mark alone, and goes
with it: the cadence stays expired, and the next change makes the next frame pending (entry 43, the model's choice). -/
def Port.abandon (x : Port) : Port :=
  { x with frame := .none, snapshot := none, outdated := false, attempts := 0, abandonRun := min 255 (x.abandonRun + 1) }

/-- The bytes the attempt in progress sends (R159). -/
def State.sentFrame (s : State) : List Byte := (s.port.snapshot.map (·.frame s.start.address)).getD []

/-- A collision at a bit of the attempt (R162, R163, R165). -/
def portCollision (s : State) (bit : Nat) : Effect :=
  if s.port.frame = .sending then
    let x := { s.port.stopped s.now bit s.sentFrame with
      attempts := s.port.attempts + 1, frame := .waiting, reception := readBefore bit s.sentFrame }
    if x.attempts < Config.attemptLimit then .none (s.withPort x)
    else
      { st := s.withPort x.abandon
        now := if Config.abandonFault ≤ x.abandon.abandonRun then [.latch .lineFault] else []
        later := [] }
  else .none s

/-- An attempt read back whole as sent (R164): the reports, the end of the frame, and a new one where it was outdated. Where
the cadence expired while the frame retried, nothing is pending after it until a change (entry 43, the model's choice). -/
def portSuccess (s : State) : Effect :=
  if s.port.frame = .sending then
    let x := { s.port.carried s.now s.sentFrame with
      frame := .none, snapshot := none, outdated := false, attempts := 0, abandonRun := 0 }
    { st := s.withPort x
      now :=
        (match s.port.snapshot with
          | some y => [.admReport y.record.panto1.state y.record.panto2.state y.taken]
          | none => [])
          ++ [.metMark .lineFault] ++ (if s.port.outdated then [.due] else [])
      later := [] }
  else .none s

/-! ## The line (R154, R155, R166) -/

/-- The active measure has passed 2 ms (R166). A line that the port holds for idle can be active only by a frame whose end
has not come yet, since no command brings a frame's beginning: the 2 ms then lie after the line was found idle (entry
13). -/
def Port.activePast (x : Port) (now : Time) : Bool :=
  match x.activeFrom with
  | some m => m + Config.activeLimit ≤ now
  | none => x.idleFrom + Config.idleBitsFirst * Config.bitTime + Config.activeLimit ≤ now

/-- The moment from which the idle measure of an active line counts (R154): the last driven bit that the port has seen, or,
where that lies 48 bit times back or more, the earliest moment that leaves the measure below 48 (entry 14, the model's
choice). -/
def Port.drivenSince (x : Port) (now : Time) : Time :=
  max x.idleFrom (now - (Config.idleBitsFirst * Config.bitTime - 1))

/-- The active measure passes 2 ms (R166): once for each stretch of activity. An active line has been driven within the last
48 bit times (R154), and the idle measure follows (entry 14). -/
def portActiveTimeout (s : State) : Effect :=
  if s.port.hold || !s.port.activePast s.now then .none s
  else
    { st := s.withPort
        { s.port with
          hold := true, activeFrom := some (s.port.activeFrom.getD (s.now - Config.activeLimit))
          idleFrom := s.port.drivenSince s.now }
      now := [.latch .lineFault], later := [] }

/-- The line becomes idle again (R154, R166), 48 bit times after it was last driven: the hold is released, and a reception
that stood is over (entry 29). On a line that is idle already, or has been driven within the 48 bit times, this cannot come
and changes nothing (entry 14). A frame that waits for a retry keeps its snapshot (entry 38). -/
def portIdle (s : State) : Effect :=
  if s.port.activeFrom.isSome && decide (Config.idleBitsFirst ≤ s.port.idleBits s.now) then
    .none (s.withPort
      { s.port with
        hold := false, activeFrom := none, reception := none
        idleFrom := s.now - Config.idleBitsFirst * Config.bitTime })
  else .none s

/-- A frame that ends at the moment `now` is one the port has received (R155): its start bit came after the line had been
idle, or the frame is the one the port went on receiving when its own attempt, begun at the same moment, collided (R158,
R162). Every other frame began on an active line, or before the first idle after power-on, or beside an own attempt. -/
def Port.receives (x : Port) (now : Time) (frame : List Byte) : Bool :=
  x.frame ≠ .sending &&
    match x.activeFrom, x.reception with
    | none, _ => decide (x.idleFrom + Config.idleBitsFirst * Config.bitTime + byteTime frame.length ≤ now)
    | some m, some pre => decide (m + byteTime frame.length = now) && pre.isPrefixOf frame
    | some _, none => false

/-- A frame of another party has ended (R154, R155): no frame is in reception. -/
def Port.heard (x : Port) (now : Time) (frame : List Byte) : Port := { x.carried now frame with reception := none }

/-- The port at the acceptance of a RESTART (R170). -/
def Port.restarted (x : Port) : Port :=
  { x with
    frame := .none, byChange := false, snapshot := none, outdated := false, attempts := 0, abandonRun := 0
    cadence := .stopped, spacing := none, lastOrder := none, lastOutcome := none }

end Sys2Proof.Machine
end

