-- ==== Sys2Proof/Machine/StartUp.lean ====
section
/-! DEFINITION. Start-up control (chapter 10): straps and positions, LISTEN and ADOPT, the configuration, restart and
power-on. -/

namespace Sys2Proof.Machine

/-! ## Straps and positions (10.1) -/

/-- A head kind strap (R171). -/
def headKindOf (x : BitVec 2) : HeadKind :=
  match x.toNat with
  | 1 => .ac
  | 2 => .dc
  | _ => .none

/-- The position of a fitted pantograph (R172). -/
def positionOf (carIndex carLength : Nat) (rear : Bool) : Nat :=
  if rear then carIndex * carLength / 10 + carLength / 10 - 4 else carIndex * carLength / 10 + 4

/-- The own position of a pantograph at freezing (R172). -/
def ownPosition (s : State) (c : Settings) (p : Panto) : Nat :=
  if (s.drive p).fitted then positionOf s.start.carIndex c.carLength (s.start.rear p) else 0

/-! ## The configuration block (R175) -/

/-- The block with every field clamped, a broken wire window replaced, and the maskable enables alone taken (R175). -/
def Settings.clamped (b : Settings) : Settings :=
  let low := clampTo 500 3700 b.windowLow
  let high := clampTo 500 3700 b.windowHigh
  { budget := clampTo 0 4000 b.budget
    carLength := clampTo 180 300 b.carLength
    spacingBase := clampTo 0 300 b.spacingBase
    spacingGain := clampTo 0 100 b.spacingGain
    limitAC25 := clampTo 1 6 b.limitAC25
    limitAC15 := clampTo 1 6 b.limitAC15
    limitDC3 := clampTo 1 6 b.limitDC3
    limitDC1K5 := clampTo 1 6 b.limitDC1K5
    basePress := clampTo 300 500 b.basePress
    aero := clampTo 0 100 b.aero
    windowLow := if low < high then low else 1400
    windowHigh := if low < high then high else 3400
    preheat := clampTo 0 120 b.preheat
    enables := b.enables &&& maskableSet }

/-! ## Freezing (R174, R176) -/

/-- Freezing: the configuration is taken, the positions are computed, RUN is entered, and the values are delivered
(R176). -/
def startFreeze (s : State) (c : Settings) (k : ConfigState) : Effect :=
  { st := s.withStart
      { s.start with
        mode := .run, adopt := none, configState := k, config := c
        pos1 := ownPosition s c .p1, pos2 := ownPosition s c .p2 }
    now := [.pressure .p1, .pressure .p2, .heatGrant, .attRecompute]
    later := [.startTest] }

/-- Adoption of a block (R174). -/
def startAdopt (s : State) (b : Settings) : Effect := startFreeze s b.clamped .frozenConsist

/-- A configuration block handed on by the peer view (R173, R174, R177). -/
def startBlock (s : State) (b : Settings) : Effect :=
  if s.start.mode = .listen then .none s
  else if s.start.configState = .unfrozen then startAdopt s b
  else if b.clamped = s.start.config then .none s
  else { st := s, now := [.latch .configMismatch], later := [] }

/-- The adopt timer expires (R174). -/
def startAdoptTimeout (s : State) : Effect := s.expire s.start.adopt fun s => startFreeze s .default .frozenDefault

/-! ## The end of LISTEN (R173) -/

/-- The block of the sole active-fresh slot's last record (R174). -/
def soleBlock (v : PeerView) : Option Settings :=
  match v.slotA.activeFresh, v.slotB.activeFresh with
  | true, false => v.slotA.record.bind ConsistRecord.block
  | false, true => v.slotB.record.bind ConsistRecord.block
  | _, _ => none

/-- Entry to ADOPT (R173, R174, R169). -/
def startEnterAdopt (s : State) : Effect :=
  let s := portDue (s.withStart { s.start with mode := .adopt, adopt := s.after Config.adoptTime }) false
  match soleBlock s.view with
  | some b => startAdopt s b
  | none => .none s

/-- Entry to RUN after a restart (R173, R169). -/
def startEnterRun (s : State) : Effect :=
  { st := portDue (s.withStart { s.start with mode := .run }) false, now := [], later := [.startTest] }

/-- LISTEN ends once the listen timer is over and no duplicate condition holds (R173). -/
def startListenCheck (s : State) : Effect :=
  if s.start.mode = .listen && s.start.listen.isNone && s.view.dupTimer.isNone then
    if s.start.configState = .unfrozen then startEnterAdopt s else startEnterRun s
  else .none s

/-- The listen timer expires (R173). -/
def startListenExpiry (s : State) : Effect :=
  s.expire s.start.listen fun s => startListenCheck (s.withStart { s.start with listen := none })

/-! ## RESTART (10.5) -/

/-- RESTART is accepted (R178). -/
def restartAccepted (s : State) : Bool :=
  s.start.mode = .run && (!s.drive1.fitted || s.drive1.state = .down) && (!s.drive2.fitted || s.drive2.state = .down)
    && !s.chg.closed

/-- Every block's restart but that of the attention unit (R179). -/
def restartBlocks (s : State) : State :=
  let t := pressureTarget s.start.config 0 0
  let s' := { s with
    drive1 := s.drive1.restarted s.now t
    drive2 := s.drive2.restarted s.now t
    unlock := none
    sense := .initial
    view := .initial s.now
    adm := .initial
    chg := s.chg.restarted
    arc := s.arc.cleared
    port := s.port.restarted
    start := { s.start with mode := .listen, listen := s.after Config.listenTime, adopt := none } }
  s'.withHeat (s.heat.loadsRestarted s')

/-- The restart at the acceptance of a RESTART order (R179): the attention unit is cleared, and what the other blocks
latch or recompute stands after it (R153, R105, R138). -/
def startRestart (s : State) : Effect :=
  let s := restartBlocks s
  attentionEffect s { s.att with latched := 0, pending := 0, met := 0 }
    ((if s.chg.selector = .lost then [Msg.latch .selectorFail] else []) ++ [.heatClaim, .heatGrant, .arcWatch])

/-! ## Power-on (10.6) -/

/-- The power-on reset abandons a write in progress (R23): the cell holds its old value or is unreadable, and the free
value of entry 10 says which. -/
def Drive.tornBy (d : Drive) (unreadable : Bool) : Drive :=
  { d with cell := if d.write.isSome && unreadable then .unreadable else d.cell, write := none, queued := none }

/-- The power-on reset input is asserted (R180): everything in progress is abandoned, and every volatile value waits at
its power-on value (entry 5). The inputs and straps stand as they were last seen. -/
def powerDown (s : State) : State :=
  let d1 := s.drive1.tornBy (Config.tornCell (2 * s.free))
  let d2 := s.drive2.tornBy (Config.tornCell (2 * s.free + 1))
  { s with
    held := true
    drive1 := .initial d1.headKind d1.cell d1.restClosed
    drive2 := .initial d2.headKind d2.cell d2.restClosed
    unlock := none
    sense := .initial
    view := { PeerView.initial s.now with noCab := none }
    adm := .initial
    chg := { Changeover.initial s.now s.chg.endAC s.chg.endDC s.chg.closed with disagree := none }
    arc := { ArcMonitor.initial s.now with assess := none }
    heat := .initial s.heat.insulator.feedback s.heat.head1.feedback s.heat.head2.feedback
    att := .initial
    port := .initial s.now
    start := { s.start with
      mode := .listen, listen := none, adopt := none, configState := .unfrozen, config := .default, pos1 := 0, pos2 := 0 }
    free := s.free + 1
    inFlight := [] }

/-- A drive at the release of the power-on reset (R28): one fitted and off its rest is lowered at once. -/
def Drive.released (d : Drive) (now : Time) : Drive :=
  if d.fitted && !d.restClosed then
    { d with state := .fallingNormal, setpoint := .ramp 0 now, lowerTimer := some (now + Config.lowerNormalTime) }
  else d

/-- What the read of a lockout cell tells the attention unit (R24). -/
def cellReadMsgs (d : Drive) : List Msg :=
  if !d.fitted then []
  else if d.cell = .unreadable then [.latch .lockoutStoreFault]
  else [.metMark .lockoutStoreFault]

/-- The station at the release, before the cells and the selector are reported (R171, R180). -/
def released (s : State) (pins : StrapPins) (x : InputLevels) : State :=
  let s' := { s with
    held := false
    drive1 := (Drive.initial (headKindOf pins.head1) s.drive1.cell x.rest1).released s.now
    drive2 := (Drive.initial (headKindOf pins.head2) s.drive2.cell x.rest2).released s.now
    unlock := none
    sense := .initial
    view := .initial s.now
    adm := .initial
    chg := .initial s.now x.endAC x.endDC x.breaker
    arc := .initial s.now
    att := .initial
    port := .initial s.now
    start := .initial s.now pins
    inFlight := [] }
  s'.withHeat ((Heating.initial x.insulator x.head1 x.head2).loadsRestarted s')

/-- The release of the power-on reset (R180). One that comes while the station runs finds it powered down first (entry
20). -/
def powerOn (s : State) (pins : StrapPins) (x : InputLevels) : Effect :=
  let s := released (if s.held then s else powerDown s) pins x
  { st := s
    now := cellReadMsgs s.drive1 ++ cellReadMsgs s.drive2
      ++ (if s.chg.selector = .lost then [Msg.latch .selectorFail] else [])
    later := [] }

end Sys2Proof.Machine
end

