-- ==== Sys2Proof/Machine/View.lean ====
section
/-! DEFINITION. The peer view (chapter 3): peer table, duplicates, cab slots, effective demand, sense disagreement. -/

namespace Sys2Proof.Machine

/-! ## The peer table (3.1) -/

/-- Put an entry into the table in place of any of its address, the table kept by rising address (entry 36). -/
def tablePut (e : PeerEntry) : List PeerEntry → List PeerEntry
  | [] => [e]
  | x :: rest =>
    if e.address < x.address then e :: x :: rest
    else if e.address = x.address then e :: rest
    else x :: tablePut e rest

def tableFind (address : Nat) (l : List PeerEntry) : Option PeerEntry := l.find? fun e => e.address = address

/-- The entry a valid status record makes or refreshes (R43). -/
def PeerEntry.fresh (address : Nat) (r : StatusRecord) (now : Time) : PeerEntry :=
  { address := address, record := r, arrived := now, stale := false, presumed1 := false, presumed2 := false }

/-- An entry gone stale, its presumed-up flags fixed at that moment (R44), whatever the announced head kinds (entry 40, the
model's choice). -/
def PeerEntry.aged (e : PeerEntry) : PeerEntry :=
  if e.stale then e
  else
    { e with stale := true, presumed1 := e.record.panto1.state.countsRaised,
             presumed2 := e.record.panto2.state.countsRaised }

/-- What a peer-view change is delivered to (R47): the admission unit's three tests and the ice and heating unit. R79
leaves open which of a yield and a peer drop ahead in one event is taken first; the yield test comes first. R47 leaves
open which of the two units takes the change first; the admission unit does (entry 18, the model's choice). -/
def peerChange : List Msg := [.admTest, .admYield, .admDropAhead, .heatGrant]

/-- A valid status record from another station (R43, R48). -/
def viewStatus (s : State) (sender : Nat) (r : StatusRecord) : Effect :=
  if sender = s.start.address then
    { st := s.withView { s.view with dupTimer := s.after Config.duplicateTime }, now := [.latch .dupStation],
      later := [] }
  else
    { st := s.withView { s.view with table := tablePut (.fresh sender r s.now) s.view.table }, now := peerChange,
      later := [.startTest] }

/-- Expiry of 100 ms without a record (R44). -/
def viewEntryStale (s : State) (address : Nat) : Effect :=
  match tableFind address s.view.table with
  | none => .none s
  | some e =>
    if e.stale then .none s
    else s.expire (some (e.arrived + Config.staleAge)) fun s =>
      { st := s.withView { s.view with table := tablePut e.aged s.view.table }, now := peerChange,
        later := [.startTest] }

/-- Expiry of 2 s without a record (R46). -/
def viewEntryRemoval (s : State) (address : Nat) : Effect :=
  match tableFind address s.view.table with
  | none => .none s
  | some e =>
    s.expire (some (e.arrived + Config.removalAge)) fun s =>
      { st := s.withView { s.view with table := s.view.table.filter fun x => x.address ≠ address }
        now := (if e.aged.presumed1 || e.aged.presumed2 then [.latch .peerSilent] else []) ++ peerChange
        later := [.startTest] }

/-- Expiry of the duplicate timer (R48); LISTEN may end with it (R173). -/
def viewDuplicateExpiry (s : State) : Effect :=
  s.expire s.view.dupTimer fun s =>
    { st := s.withView { s.view with dupTimer := none }, now := [.endOf .dupStation, .listenCheck], later := [] }

/-! ## The effective demand (3.3) -/

/-- The values of a consist record, the speed clamped (R52, R56). -/
def ConsistRecord.values (r : ConsistRecord) : DemandValues :=
  { demand := r.demand, system := r.system, direction := r.direction, deIce := r.deIce,
    speed := min Config.speedMax r.speed, marker := r.marker }

/-- The source mode that the active-fresh slots give (R52, R53, R54). -/
def PeerView.nextMode (v : PeerView) : SourceMode :=
  match v.slotA.activeFresh, v.slotB.activeFresh with
  | true, false => .sole .a
  | false, true => .sole .b
  | true, true => .conflict
  | false, false =>
    match v.mode with
    | .sole _ => .gap
    | .conflict => .gap
    | m => m

/-- A source mode in which no slot is active-fresh. -/
def SourceMode.noCab : SourceMode → Bool
  | .gap => true
  | .stale => true
  | .lost => true
  | _ => false

/-- A cab slot's demand is LOWER or PREPARE (R53). -/
def CabSlot.opposesRaise (c : CabSlot) : Bool :=
  match c.record with
  | some r => r.demand ≠ .raise
  | none => false

/-- The demand derived in CONFLICT: LOWER if either slot's demand is LOWER or PREPARE, else RAISE (R53). -/
def PeerView.conflictDemand (v : PeerView) : Demand :=
  if v.slotA.opposesRaise || v.slotB.opposesRaise then .lower else .raise

/-- The view after its slots are taken into the effective demand (R52, R53, R54). -/
def PeerView.taken (v : PeerView) (now : Time) : PeerView :=
  let m := v.nextMode
  { v with
    mode := m
    noCab := if m.noCab then (if v.mode.noCab then v.noCab else some now) else none
    heldValues :=
      match m with
      | .sole e => ((v.slot e).record.map ConsistRecord.values).getD v.heldValues
      | _ => v.heldValues
    derived := if m = .conflict then v.conflictDemand else .lower }

/-- The causes that begin or end with the source mode (R52 to R55, R148). -/
def modeMsgs (old new : SourceMode) : List Msg :=
  if old = new then []
  else
    (match new with
      | .conflict => [.latch .cabConflict]
      | .stale => [.latch .demandStale]
      | .lost => [.latch .demandLost]
      | _ => [])
    ++ (if new ≠ .lost then [.endOf .demandLost] else [])
    ++ (if new ≠ .stale ∧ new ≠ .lost then [.endOf .demandStale] else [])
    ++ (if new ≠ .conflict then [.endOf .cabConflict] else [])

/-- The readers of a demand change (R56): the admission unit first, then the changeover controller, the drives and the
ice and heating unit. The marker is read where it is used and delivered to none. Within the admission unit the grounds of
WITHHELD come before the admission test and the yield test (entry 18, the model's choice). -/
def demandMsgs (old new : PeerView) : List Msg :=
  let demand := old.demand ≠ new.demand
  let system := old.heldValues.system ≠ new.heldValues.system
  let direction := old.heldValues.direction ≠ new.heldValues.direction
  let deIce := old.heldValues.deIce ≠ new.heldValues.deIce
  let speed := old.heldValues.speed ≠ new.heldValues.speed
  let mode := old.mode ≠ new.mode
  let marks := old.conflictMark ≠ new.conflictMark ∨ old.staleMark ≠ new.staleMark
  (if demand ∨ system ∨ direction ∨ speed ∨ marks then [.admCheck] else [])
    ++ (if speed ∨ direction then [.admTest, .admYield] else [])
    ++ (if direction then [.admDropAhead] else [])
    ++ (if demand ∨ system ∨ mode then [.chgDemand demand system] else [])
    ++ (if speed ∨ deIce then [.pressure .p1, .pressure .p2] else [])
    ++ (if deIce then [.heatClaim] else [])

/-- Write the view and deliver what its change brings: the causes of the mode, with the level change they bring, then the
demand change (R52 to R56). Their order is the model's choice (entry 18). -/
def viewEffect (s : State) (v : PeerView) : Effect :=
  { st := s.withView v
    now := modeMsgs s.view.mode v.mode ++ demandMsgs s.view v
    later := if demandMsgs s.view v = [] then [] else [.chgReopen, .startTest] }

/-- Take the cab slots into the effective demand (R52, R53, R54). -/
def viewTake (s : State) : Effect := viewEffect s (s.view.taken s.now)

/-- A valid consist record (R50, R51): the slot is replaced, a block of the sole active cab is handed on, then the record
is taken into the effective demand. -/
def viewConsist (s : State) (e : CabEnd) (r : ConsistRecord) : Effect :=
  { st := s.withView (s.view.setSlot e { record := some r, arrived := s.now, activeFresh := r.active })
    now :=
      (match r.block with
        | some b => if r.active && !(s.view.slot e.other).activeFresh then [.block b] else []
        | none => [])
      ++ [.viewTake]
    later := [] }

/-- Expiry of 200 ms after a slot's last active record (R51). -/
def viewSlotExpiry (s : State) (e : CabEnd) : Effect :=
  if (s.view.slot e).activeFresh then
    s.expire (some ((s.view.slot e).arrived + Config.slotAge)) fun s =>
      { st := s.withView (s.view.setSlot e { s.view.slot e with activeFresh := false }), now := [.viewTake],
        later := [] }
  else .none s

/-- The no-cab timer reaches 200 ms in GAP (R54). -/
def viewNoCabStale (s : State) : Effect :=
  if s.view.mode = .gap then
    s.expire (s.view.noCab.map (· + Config.noCabStaleTime)) fun s => viewEffect s { s.view with mode := .stale }
  else .none s

/-- The no-cab timer reaches 2 s in STALE (R55). -/
def viewNoCabLost (s : State) : Effect :=
  if s.view.mode = .stale then
    s.expire (s.view.noCab.map (· + Config.noCabLostTime)) fun s => viewEffect s { s.view with mode := .lost }
  else .none s

/-! ## Sense disagreement (3.5) -/

/-- A fresh entry announces a class other than DEAD and UNKNOWN that differs from the own class (R58). -/
def PeerEntry.disagrees (own : LineClass) (e : PeerEntry) : Bool :=
  !e.stale && e.record.confirmed ≠ .dead && e.record.confirmed ≠ .unknown && e.record.confirmed ≠ own

/-- The disagreement check at a gate report (R58, R59), against the class that the report holds (R40). -/
def viewGate (s : State) (r : GateReport) : Effect :=
  let stands := (s.chg.phase = .steady || s.chg.phase = .confirming) &&
    s.view.table.any (PeerEntry.disagrees r.confirmed)
  let n := if stands then min 2 (s.view.disagree + 1) else 0
  { st := s.withView { s.view with disagree := n }
    now := if n = 2 then [.latch .senseDisagree] else if n = 0 then [.endOf .senseDisagree] else []
    later := [] }

end Sys2Proof.Machine
end

