-- ==== Sys2Proof/Machine/Orders.lean ====
section
/-! DEFINITION. The roof line port's receiving side (9.3, 9.7): dispatch of a received frame, order handling, and what each
order does at the block it names. -/

namespace Sys2Proof.Machine

/-! ## Order handling (R167, R168) -/

/-- The orders that may be broadcast (R167). -/
def OrderKind.mayBroadcast : OrderKind → Bool
  | .ackCause => true
  | .clearArcs => true
  | _ => false

/-- The test of an UNLOCK (R26): the first that fails gives the outcome. -/
def unlockOutcome (s : State) (arg : Nat) : OrderOutcome :=
  if s.unlock.isNone then .refusedNotEnabled
  else match orderPanto s arg with
    | none => .refusedArg
    | some p =>
      if (s.drive p).state ≠ .down then .refusedState
      else if (s.drive p).write.isSome then .refusedBusy
      else .done

/-- The outcome of an order that reaches order handling (R167, R150, R21, R25, R26, R114, R178). -/
def orderOutcome (s : State) (o : OrderRecord) : OrderOutcome :=
  if s.view.soleCab ≠ some o.sender then .refusedCab
  else if o.target = 0 ∧ !o.kind.mayBroadcast then .refusedArg
  else match o.kind with
    | .ackCause => if (Cause.ofNumber o.arg).isSome then .done else .refusedArg
    | .isolate => if (orderPanto s o.arg).isSome then .done else .refusedArg
    | .restore => if (orderPanto s o.arg).isSome then .done else .refusedArg
    | .unlockEnable => .done
    | .unlock => unlockOutcome s o.arg
    | .clearArcs => .done
    | .restart => if restartAccepted s then .done else .refusedState

/-- The unlock enable latch after an order (R25, R26). -/
def unlockAfter (s : State) (k : OrderKind) (x : OrderOutcome) : Timer :=
  if k = .unlockEnable ∧ x = .done then s.after Config.unlockTime
  else if k = .unlock ∧ x = .refusedBusy then s.unlock
  else none

/-- CLEAR_ARCS at the arc monitor and the ice and heating unit (R114, R136). -/
def clearArcs (s : State) : Effect :=
  let e := heatClearArcs (s.withArc s.arc.cleared)
  { e with now := .recheck .arcBurst :: e.now }

/-- What an order that ends with DONE does at its block. -/
def orderEffect (s : State) (o : OrderRecord) : Effect :=
  match o.kind with
  | .ackCause =>
    match Cause.ofNumber o.arg with
    | some c => attAcknowledge s c
    | none => .none s
  | .isolate =>
    match orderPanto s o.arg with
    | some p => driveIsolate s p
    | none => .none s
  | .restore =>
    match orderPanto s o.arg with
    | some p => driveRestore s p
    | none => .none s
  | .unlockEnable => .none s
  | .unlock =>
    match orderPanto s o.arg with
    | some p => driveUnlock s p
    | none => .none s
  | .clearArcs => clearArcs s
  | .restart => startRestart s

/-- The station with the result of an order recorded (R168) and the unlock enable latch after it (R25). -/
def recordOrder (s : State) (k : OrderKind) (x : OrderOutcome) : State :=
  (s.withUnlock (unlockAfter s k x)).withPort { s.port with lastOrder := some k, lastOutcome := some x }

/-- An order at order handling (R167, R168): its result is recorded and a status frame falls due. An accepted RESTART
records none, by its own rule. -/
def orderHandle (s : State) (o : OrderRecord) : Effect :=
  let x := orderOutcome s o
  let s := portDue (recordOrder s o.kind x) true
  if x = .done then orderEffect s o else .none s

/-! ## Dispatch (R158) -/

/-- A valid frame of another party goes to the block that takes it (R158). -/
def dispatch (s : State) : ValidFrame → Effect
  | .status sender r => viewStatus s sender r
  | .consist e r => viewConsist s e r
  | .order o => if o.target = s.start.address ∨ o.target = 0 then orderHandle s o else .none s

/-- A frame of another party has been read to its end: one that the port received (R155) is checked (R157) and dispatched by
its content (entry 13); one that it did not receive counts for the line measures alone. -/
def portReceive (s : State) (frame : List Byte) : Effect :=
  let u := s.withPort (s.port.heard s.now frame)
  if s.port.receives s.now frame then
    match parseFrame frame with
    | some v => dispatch u v
    | none => .none u
  else .none u

/-- A frame is discarded (R155, R157): one that broke off, or whose stop bit read the driven level, reaches no block
whatever its bytes; one read to its end is checked. A driven stop bit is the last driven bit of its frame (R154). -/
def portDiscarded (s : State) (frame : List Byte) (ending : Ending) : Effect :=
  match ending with
  | .whole => portReceive s frame
  | .brokenOff => .none (s.withPort (s.port.heard s.now frame))
  | .stopDriven => .none (s.withPort { s.port.heard s.now frame with idleFrom := s.now })

end Sys2Proof.Machine
end

