-- ==== Sys2Proof/Machine/Sense.lean ====
section
/-! DEFINITION. The line sense unit (chapter 2): samples, gates, their classification, the confirmed class. -/

namespace Sys2Proof.Machine

/-- A sample as the unit takes it (R30): a missing one is 0, and it is clamped to −600..600. -/
def sampleTaken (v : Option Int) : Int := max (-(Config.sampleLimit : Int)) (min Config.sampleLimit (v.getD 0))

/-- The polarity after a sample (R31). -/
def polarityAfter (old : Polarity) (x : Int) : Polarity :=
  if Config.hysteresis ≤ x then .pos else if x ≤ -Config.hysteresis then .neg else old

/-- A sample that moves the polarity from POS to NEG or back counts a crossing (R31). -/
def crosses (old new : Polarity) : Bool := (old = .pos && new = .neg) || (old = .neg && new = .pos)

/-- One sample of the gate in progress (R30, R31, R32). -/
def Sense.sample (x : Sense) (v : Option Int) : Sense :=
  let n := sampleTaken v
  let pol := polarityAfter x.polarity n
  { x with
    position := x.position + 1
    polarity := pol
    crossings := if crosses x.polarity pol then min Config.crossingMax (x.crossings + 1) else x.crossings
    sum := x.sum + n.natAbs }

/-- The classification table of R33, its rows tried from the top. -/
def classify (crossings level : Nat) : LineClass :=
  if level < 5 then .dead
  else if crossings ≤ 1 ∧ 10 ≤ level ∧ level ≤ 21 then .sys .dc1k5
  else if crossings ≤ 1 ∧ 22 ≤ level ∧ level ≤ 41 then .sys .dc3
  else if crossings ≤ 1 ∧ 42 ≤ level then .over
  else if 6 ≤ crossings ∧ crossings ≤ 10 ∧ 90 ≤ level ∧ level ≤ 161 then .sys .ac15
  else if 6 ≤ crossings ∧ crossings ≤ 10 ∧ 162 ≤ level then .over
  else if 20 ≤ crossings ∧ crossings ≤ 28 ∧ 153 ≤ level ∧ level ≤ 260 then .sys .ac25
  else if 20 ≤ crossings ∧ crossings ≤ 28 ∧ 261 ≤ level then .over
  else .unknown

/-- The level L of the gate in progress (R32). -/
def Sense.level (x : Sense) : Nat := x.sum / Config.gateSamples

/-- The result of the gate in progress (R32, R33). -/
def Sense.result (x : Sense) : LineClass := classify x.crossings x.level

/-- The results two of which confirm their class (R35). -/
def LineClass.confirmable : LineClass → Bool
  | .sys _ => true
  | .dead => true
  | _ => false

/-- A run of equal results: one more, saturating, or back to 0 (R34). -/
def runAfter (run : Nat) (again : Bool) : Nat := if again then min Config.runMax (run + 1) else 0

/-- The unit after a gate end (R34, R35, R36, R37). -/
def Sense.gateEnd (x : Sense) : Sense :=
  let r := x.result
  { x with
    position := 0
    crossings := 0
    sum := 0
    older := x.newer
    newer := some r
    unknownRun := runAfter x.unknownRun (r = .unknown)
    deadRun := runAfter x.deadRun (r = .dead)
    confirmed := if r.confirmable && x.newer = some r then r else if r = .over then .over else x.confirmed }

/-- The gate report that the end of the gate in progress gives (R40). -/
def Sense.report (x : Sense) : GateReport := { result := x.result, level := x.level, confirmed := x.gateEnd.confirmed }

/-- The gate end as one event (R34 to R37, R40): the latches, then, at a change of class, the reports of the clearing
conditions of OVERVOLTAGE and WRONG_SYSTEM (R149) with the level rise they may bring, then the gate report to the
controller, the class change to the admission unit and the report to the peer view. R40 calls it all one event, and this
order is the model's choice (entry 17). -/
def senseGateEnd (s : State) : Effect :=
  let r := s.sense.result
  let x := s.sense.gateEnd
  let changed := x.confirmed ≠ s.sense.confirmed
  if s.sense.position = Config.gateSamples then
    { st := s.withSense x
      now :=
        (if r = .over then [.latch .overvoltage] else [])
          ++ (if r = .unknown ∧ Config.unknownRunFault ≤ x.unknownRun then [.latch .wrongSystem] else [])
          ++ (if changed then [.recheck .overvoltage, .recheck .wrongSystem, .due] else [])
          ++ [.chgGate s.sense.report]
          ++ (if changed then [.admTest] else [])
          ++ [.viewGate s.sense.report]
      later := if changed then [.startTest] else [] }
  else .none s

/-- A line voltage sample (R30): one that comes when the gate holds its 480 samples ends that gate first (entry 12). -/
def senseSample (s : State) (v : Option Int) : Effect :=
  let e := senseGateEnd s
  { e with st := e.st.withSense (e.st.sense.sample v) }

end Sys2Proof.Machine
end

