-- ==== Sys2Proof/Machine/Settle.lean ====
section
/-! DEFINITION. What one command comes to inside the station: each message taken by its block, the messages it sends taken
at once, until none is left (entry 6). -/

namespace Sys2Proof.Machine

/-- The block a message is for takes it. -/
def handle (s : State) : Msg → Effect
  | .lower p src => driveLower s p src
  | .rise p => driveRise s p
  | .toDown p o => driveToDown s p o
  | .toBidding p x => driveToBidding s p x
  | .toPreheat p => driveToPreheat s p
  | .pressure p => drivePressure s p
  | .breakerOpened p => driveBreakerOpened s p
  | .admReturn p o => admReturn s p o
  | .admCheck => admCheck s
  | .admPanto p old new => admPanto s p old new
  | .admTest => admTest s
  | .admYield => admYield s
  | .admDropAhead => admDropAhead s
  | .admReport shown1 shown2 taken => admReport s shown1 shown2 taken
  | .admHead p on => admHead s p on
  | .startTest => admStart s
  | .viewTake => viewTake s
  | .viewGate r => viewGate s r
  | .chgDemand demand system => chgDemand s demand system
  | .chgGate r => chgGate s r
  | .chgPanto => chgPanto s
  | .chgOpen => chgOpen s
  | .chgLevel level => chgLevel s level
  | .chgExits => chgExits s
  | .chgArrive => chgArrive s
  | .chgSelector => chgSelector s
  | .chgCleared c => chgCleared s c
  | .chgReopen => chgReopen s
  | .latch c => attLatch s c
  | .endOf c => attEnd s c
  | .recheck c => attRecheck s c
  | .metMark c => attMet s c
  | .attRecompute => attRecompute s
  | .heatClaim => heatClaim s
  | .heatGrant => heatGrant s
  | .heatLevel => heatLevel s
  | .heatStep arcs => heatStep s arcs
  | .heatCleared => heatCleared s
  | .arcWatch => arcWatch s
  | .due => .none (portDue s true)
  | .block b => startBlock s b
  | .listenCheck => startListenCheck s

/-- Take the messages in their order, those a message sends at once before those that wait; at the bound the rest is kept
in the state (entry 6). -/
def settle : Nat → List Msg → State → State
  | 0, msgs, s => s.withInFlight msgs
  | _ + 1, [], s => s.withInFlight []
  | n + 1, m :: rest, s =>
    let e := handle s m
    settle n (e.now ++ rest ++ e.later) e.st

/-- The station after a block's handling and everything that follows from it. -/
def Effect.run (e : Effect) : State := settle Config.settleBound (e.st.inFlight ++ e.now ++ e.later) e.st

/-- What a command comes to: while the power-on reset is held the station does nothing (R180, entry 5). -/
def State.live (s : State) (k : State → Effect) : Host.Outcome State Fault Refusal :=
  .next (if s.held then s else (k s).run)

/-- What a command that comes from outside at the moment `t` comes to (entry 1). -/
def State.liveAt (s : State) (t : Time) (k : State → Effect) : Host.Outcome State Fault Refusal :=
  s.live fun s => k (s.advance t)

end Sys2Proof.Machine
end

