-- ==== Sys2Proof/Machine/AdmissionEvents.lean ====
section
/-! DEFINITION. The admission unit's commands (chapter 4). -/

namespace Sys2Proof.Machine

/-- WINDOW_EXPIRY (R66). -/
def execWindowExpiry (s : State) : Host.Outcome State Fault Refusal :=
  s.live fun s => admWindowExpiry s

/-- BID_TIMEOUT (R71). -/
def execBidTimeout (s : State) : Host.Outcome State Fault Refusal :=
  s.live fun s => admBidTimeout s

/-- HOLDOFF_EXPIRY (R63). -/
def execHoldoffExpiry (s : State) : Host.Outcome State Fault Refusal :=
  s.live fun s => admHoldoffExpiry s

/-- HEATED_TIME_REACHED (R76). -/
def execHeatedTimeReached (s : State) : Host.Outcome State Fault Refusal :=
  s.live fun s => admHeatedReached s

/-- PREHEAT_TIMEOUT (R76). -/
def execPreheatTimeout (s : State) : Host.Outcome State Fault Refusal :=
  s.live fun s => admPreheatTimeout s

end Sys2Proof.Machine
end

