-- ==== Sys2Proof/Machine/ArcEvents.lean ====
section
/-! DEFINITION. The arc monitor's commands (chapter 6). -/

namespace Sys2Proof.Machine

/-- CURRENT_SAMPLE (R106): a sample in A, or none where one is missing. -/
def execCurrentSample (t : Time) (p : Panto) (v : Option Nat) (s : State) : Host.Outcome State Fault Refusal :=
  s.liveAt t fun s => arcSample s p v

/-- ASSESSMENT_EXPIRY (R112). -/
def execAssessmentExpiry (s : State) : Host.Outcome State Fault Refusal :=
  s.live fun s => arcAssess s

end Sys2Proof.Machine
end

