-- ==== Sys2Proof/Machine/ChangeoverEvents.lean ====
section
/-! DEFINITION. The changeover controller's commands (chapter 5). -/

namespace Sys2Proof.Machine

/-- TRANSIT_TIMEOUT (R98). -/
def execTransitTimeout (s : State) : Host.Outcome State Fault Refusal :=
  s.live fun s => chgTransitTimeout s

/-- RETARGET_PAUSE_END (R99). -/
def execRetargetPauseEnd (s : State) : Host.Outcome State Fault Refusal :=
  s.live fun s => chgPauseEnd s

/-- END_SWITCH_CHANGE (R100), with both switches as they now read. -/
def execEndSwitchChange (t : Time) (acClosed dcClosed : Bool) (s : State) : Host.Outcome State Fault Refusal :=
  s.liveAt t fun s => chgEndSwitch s acClosed dcClosed

/-- BREAKER_FEEDBACK_CHANGE (R103), with the feedback as it now reads. -/
def execBreakerFeedbackChange (t : Time) (closed : Bool) (s : State) : Host.Outcome State Fault Refusal :=
  s.liveAt t fun s => chgFeedback s closed

/-- BREAKER_DISAGREE_EXPIRY (R103). -/
def execBreakerDisagreeExpiry (s : State) : Host.Outcome State Fault Refusal :=
  s.live fun s => chgDisagreeExpiry s

end Sys2Proof.Machine
end

