-- ==== Sys2Proof/Machine/DriveEvents.lean ====
section
/-! DEFINITION. The pantograph drive's commands (chapter 1). -/

namespace Sys2Proof.Machine

/-- LEGAL_TRANSITION (R3): one encoder line changed, up or down by one count. -/
def execLegalTransition (t : Time) (p : Panto) (up : Bool) (s : State) : Host.Outcome State Fault Refusal :=
  s.liveAt t fun s => driveLegal s p up

/-- ILLEGAL_TRANSITION (R5): both encoder lines changed together. -/
def execIllegalTransition (t : Time) (p : Panto) (s : State) : Host.Outcome State Fault Refusal :=
  s.liveAt t fun s => driveIllegal s p

/-- ENCODER_QUIET_EXPIRY (R5). -/
def execEncoderQuietExpiry (p : Panto) (s : State) : Host.Outcome State Fault Refusal :=
  s.live fun s => driveQuiet s p

/-- STILLNESS_SPAN_END (R10). -/
def execStillnessSpanEnd (p : Panto) (s : State) : Host.Outcome State Fault Refusal :=
  s.live fun s => driveStill s p

/-- REST_SWITCH_CLOSURE (R4, R13, R16, R20). -/
def execRestSwitchClosure (t : Time) (p : Panto) (s : State) : Host.Outcome State Fault Refusal :=
  s.liveAt t fun s => driveRestClose s p

/-- REST_SWITCH_OPENING (R4). -/
def execRestSwitchOpening (t : Time) (p : Panto) (s : State) : Host.Outcome State Fault Refusal :=
  s.liveAt t fun s => driveRestOpen s p

/-- WIRE_LOSS_INTERVAL (R13). -/
def execWireLossInterval (p : Panto) (s : State) : Host.Outcome State Fault Refusal :=
  s.live fun s => driveWireLoss s p

/-- PRESSURE_VALUE (R14): a value in kPa, or none where one is missing. -/
def execPressureValue (t : Time) (p : Panto) (v : Option Nat) (s : State) : Host.Outcome State Fault Refusal :=
  s.liveAt t fun s => drivePressureValue s p v

/-- REFERENCE_TARGET_EXPIRY (R14). -/
def execReferenceTargetExpiry (p : Panto) (s : State) : Host.Outcome State Fault Refusal :=
  s.live fun s => driveReference s p

/-- AUTO_DROP (R15). -/
def execAutoDrop (p : Panto) (s : State) : Host.Outcome State Fault Refusal :=
  s.live fun s => driveAutoDrop s p

/-- RAISE_TIMEOUT (R12). -/
def execRaiseTimeout (p : Panto) (s : State) : Host.Outcome State Fault Refusal :=
  s.live fun s => driveRaiseTimeout s p

/-- BREAKER_WAIT_EXPIRY (R18). -/
def execBreakerWaitExpiry (p : Panto) (s : State) : Host.Outcome State Fault Refusal :=
  s.live fun s => driveWaitExpiry s p

/-- LOWER_TIMER_EXPIRY (R20). -/
def execLowerTimerExpiry (p : Panto) (s : State) : Host.Outcome State Fault Refusal :=
  s.live fun s => driveLowerTimeout s p

/-- DROP_TIMER_EXPIRY (R16). -/
def execDropTimerExpiry (p : Panto) (s : State) : Host.Outcome State Fault Refusal :=
  s.live fun s => driveDropTimeout s p

/-- CELL_WRITE_COMPLETE (R23), with what the cell reads back. -/
def execCellWriteComplete (t : Time) (p : Panto) (readBack : CellValue) (s : State) :
    Host.Outcome State Fault Refusal :=
  s.liveAt t fun s => driveCellComplete s p readBack

/-- UNLOCK_ENABLE_EXPIRY (R25). -/
def execUnlockEnableExpiry (s : State) : Host.Outcome State Fault Refusal :=
  s.live fun s => unlockExpiry s

end Sys2Proof.Machine
end

