-- ==== Sys2Proof/Machine/HeatingEvents.lean ====
section
/-! DEFINITION. The ice and heating unit's commands (chapter 7). -/

namespace Sys2Proof.Machine

/-- WEATHER_READING (R117). -/
def execWeatherReading (t : Time) (r : Reading) (s : State) : Host.Outcome State Fault Refusal :=
  s.liveAt t fun s => .none (s.withHeat (s.heat.reading r))

/-- PWM_PERIOD_EXPIRY (R131). -/
def execPwmPeriodExpiry (l : Load) (s : State) : Host.Outcome State Fault Refusal :=
  s.live fun s => heatPeriod s l

/-- PWM_ON_PART_END (R131). -/
def execPwmOnPartEnd (l : Load) (s : State) : Host.Outcome State Fault Refusal :=
  s.live fun s => heatOnPartEnd s l

/-- HEATER_FEEDBACK_CHANGE (R134), with the feedback as it now reads. -/
def execHeaterFeedbackChange (t : Time) (l : Load) (current : Bool) (s : State) : Host.Outcome State Fault Refusal :=
  s.liveAt t fun s => heatFeedback s l current

/-- HEATER_DISAGREE_EXPIRY (R134, R135). -/
def execHeaterDisagreeExpiry (l : Load) (s : State) : Host.Outcome State Fault Refusal :=
  s.live fun s => heatDisagree s l

end Sys2Proof.Machine
end

