-- ==== Sys2Proof/Machine/OrderEvents.lean ====
section
/-! DEFINITION. The orders (9.7), each the order frame as received. -/

namespace Sys2Proof.Machine

/-- ACK_CAUSE (R150). -/
def execAckCause (t : Time) (frame : List Byte) (s : State) : Host.Outcome State Fault Refusal :=
  s.liveAt t fun s => portReceive s frame

/-- ISOLATE (R21). -/
def execIsolate (t : Time) (frame : List Byte) (s : State) : Host.Outcome State Fault Refusal :=
  s.liveAt t fun s => portReceive s frame

/-- RESTORE (R21). -/
def execRestore (t : Time) (frame : List Byte) (s : State) : Host.Outcome State Fault Refusal :=
  s.liveAt t fun s => portReceive s frame

/-- UNLOCK_ENABLE (R25). -/
def execUnlockEnable (t : Time) (frame : List Byte) (s : State) : Host.Outcome State Fault Refusal :=
  s.liveAt t fun s => portReceive s frame

/-- UNLOCK (R26). -/
def execUnlock (t : Time) (frame : List Byte) (s : State) : Host.Outcome State Fault Refusal :=
  s.liveAt t fun s => portReceive s frame

/-- CLEAR_ARCS (R114, R136). -/
def execClearArcs (t : Time) (frame : List Byte) (s : State) : Host.Outcome State Fault Refusal :=
  s.liveAt t fun s => portReceive s frame

/-- RESTART (R178, R179). -/
def execRestart (t : Time) (frame : List Byte) (s : State) : Host.Outcome State Fault Refusal :=
  s.liveAt t fun s => portReceive s frame

end Sys2Proof.Machine
end

