-- ==== Sys2Proof/Machine/PortEvents.lean ====
section
/-! DEFINITION. The roof line port's commands (chapter 9). -/

namespace Sys2Proof.Machine

/-- CADENCE_EXPIRY (R160). -/
def execCadenceExpiry (s : State) : Host.Outcome State Fault Refusal :=
  s.live fun s => portCadence s

/-- SPACING_EXPIRY (R160). -/
def execSpacingExpiry (s : State) : Host.Outcome State Fault Refusal :=
  s.live fun s => portSpacing s

/-- ATTEMPT_START (R162), at the moment `bits` bit times after `t` (entry 14). -/
def execAttemptStart (t : Time) (bits : Nat) (s : State) : Host.Outcome State Fault Refusal :=
  s.liveAt (t + Config.bitTime * bits) fun s => portAttempt s

/-- COLLISION (R162), with the bit of the own frame that read back differently. -/
def execCollision (t : Time) (bit : Nat) (s : State) : Host.Outcome State Fault Refusal :=
  s.liveAt t fun s => portCollision s bit

/-- SUCCESS (R164). -/
def execSuccess (t : Time) (s : State) : Host.Outcome State Fault Refusal :=
  s.liveAt t fun s => portSuccess s

/-- LINE_ACTIVE_TIMEOUT (R166). -/
def execLineActiveTimeout (t : Time) (s : State) : Host.Outcome State Fault Refusal :=
  s.liveAt t fun s => portActiveTimeout s

/-- LINE_IDLE (R166). -/
def execLineIdle (t : Time) (s : State) : Host.Outcome State Fault Refusal :=
  s.liveAt t fun s => portIdle s

/-- FRAME_DISCARDED (R157). -/
def execFrameDiscarded (t : Time) (frame : List Byte) (ending : Ending) (s : State) :
    Host.Outcome State Fault Refusal :=
  s.liveAt t fun s => portDiscarded s frame ending

end Sys2Proof.Machine
end

