-- ==== Sys2Proof/Machine/SenseEvents.lean ====
section
/-! DEFINITION. The line sense unit's commands (chapter 2). -/

namespace Sys2Proof.Machine

/-- LINE_SAMPLE (R30): a sample in 0.1 kV, or none where one is missing. -/
def execLineSample (t : Time) (v : Option Int) (s : State) : Host.Outcome State Fault Refusal :=
  s.liveAt t fun s => senseSample s v

/-- GATE_END (R34): the 480th sample has been taken. -/
def execGateEnd (s : State) : Host.Outcome State Fault Refusal :=
  s.live fun s => senseGateEnd s

end Sys2Proof.Machine
end

