-- ==== Sys2Proof/Machine/StartUpEvents.lean ====
section
/-! DEFINITION. Start-up control's commands (chapter 10). -/

namespace Sys2Proof.Machine

/-- POWER_ON (R180): the release of the power-on reset, with the strap pins and input levels that stand then. -/
def execPowerOn (t : Time) (pins : StrapPins) (levels : InputLevels) (s : State) : Host.Outcome State Fault Refusal :=
  .next (powerOn (s.advance t) pins levels).run

/-- LISTEN_EXPIRY (R173). -/
def execListenExpiry (s : State) : Host.Outcome State Fault Refusal :=
  s.live fun s => startListenExpiry s

/-- ADOPT_TIMEOUT (R174). -/
def execAdoptTimeout (s : State) : Host.Outcome State Fault Refusal :=
  s.live fun s => startAdoptTimeout s

/-- POWER_ON_RESET_ASSERTED (R180). -/
def execPowerOnResetAsserted (t : Time) (s : State) : Host.Outcome State Fault Refusal :=
  s.liveAt t fun s => .none (powerDown s)

end Sys2Proof.Machine
end

