-- ==== Sys2Proof/Machine/ViewEvents.lean ====
section
/-! DEFINITION. The peer view's commands (chapter 3). -/

namespace Sys2Proof.Machine

/-- STATUS_RECORD (R43): a status frame has been received. -/
def execStatusRecord (t : Time) (frame : List Byte) (s : State) : Host.Outcome State Fault Refusal :=
  s.liveAt t fun s => portReceive s frame

/-- DUPLICATE_RECORD (R48): a status frame bearing the own address has been received. -/
def execDuplicateRecord (t : Time) (frame : List Byte) (s : State) : Host.Outcome State Fault Refusal :=
  s.liveAt t fun s => portReceive s frame

/-- ENTRY_STALE (R44). -/
def execEntryStale (address : Nat) (s : State) : Host.Outcome State Fault Refusal :=
  s.live fun s => viewEntryStale s address

/-- ENTRY_REMOVAL (R46). -/
def execEntryRemoval (address : Nat) (s : State) : Host.Outcome State Fault Refusal :=
  s.live fun s => viewEntryRemoval s address

/-- DUPLICATE_EXPIRY (R48). -/
def execDuplicateExpiry (s : State) : Host.Outcome State Fault Refusal :=
  s.live fun s => viewDuplicateExpiry s

/-- CONSIST_RECORD (R50): a consist frame has been received. -/
def execConsistRecord (t : Time) (frame : List Byte) (s : State) : Host.Outcome State Fault Refusal :=
  s.liveAt t fun s => portReceive s frame

/-- SLOT_EXPIRY (R51). -/
def execSlotExpiry (e : CabEnd) (s : State) : Host.Outcome State Fault Refusal :=
  s.live fun s => viewSlotExpiry s e

/-- NO_CAB_STALE (R54). -/
def execNoCabStale (s : State) : Host.Outcome State Fault Refusal :=
  s.live fun s => viewNoCabStale s

/-- NO_CAB_LOST (R55). -/
def execNoCabLost (s : State) : Host.Outcome State Fault Refusal :=
  s.live fun s => viewNoCabLost s

end Sys2Proof.Machine
end

