-- ==== Sys2Proof/Machine/Dispatch.lean ====
section
/-! DEFINITION. One arm per command: the meaning each has. -/

namespace Sys2Proof.Machine

def exec (i : Instr) (s : State) : Host.Outcome State Fault Refusal :=
  match i with
  | .powerOn t pins levels => Sys2Proof.Machine.execPowerOn t pins levels s
  | .legalTransition t p up => Sys2Proof.Machine.execLegalTransition t p up s
  | .illegalTransition t p => Sys2Proof.Machine.execIllegalTransition t p s
  | .encoderQuietExpiry p => Sys2Proof.Machine.execEncoderQuietExpiry p s
  | .stillnessSpanEnd p => Sys2Proof.Machine.execStillnessSpanEnd p s
  | .restSwitchClosure t p => Sys2Proof.Machine.execRestSwitchClosure t p s
  | .restSwitchOpening t p => Sys2Proof.Machine.execRestSwitchOpening t p s
  | .wireLossInterval p => Sys2Proof.Machine.execWireLossInterval p s
  | .pressureValue t p v => Sys2Proof.Machine.execPressureValue t p v s
  | .referenceTargetExpiry p => Sys2Proof.Machine.execReferenceTargetExpiry p s
  | .autoDrop p => Sys2Proof.Machine.execAutoDrop p s
  | .raiseTimeout p => Sys2Proof.Machine.execRaiseTimeout p s
  | .breakerWaitExpiry p => Sys2Proof.Machine.execBreakerWaitExpiry p s
  | .lowerTimerExpiry p => Sys2Proof.Machine.execLowerTimerExpiry p s
  | .dropTimerExpiry p => Sys2Proof.Machine.execDropTimerExpiry p s
  | .cellWriteComplete t p readBack => Sys2Proof.Machine.execCellWriteComplete t p readBack s
  | .unlockEnableExpiry => Sys2Proof.Machine.execUnlockEnableExpiry s
  | .lineSample t v => Sys2Proof.Machine.execLineSample t v s
  | .gateEnd => Sys2Proof.Machine.execGateEnd s
  | .statusRecord t frame => Sys2Proof.Machine.execStatusRecord t frame s
  | .duplicateRecord t frame => Sys2Proof.Machine.execDuplicateRecord t frame s
  | .entryStale address => Sys2Proof.Machine.execEntryStale address s
  | .entryRemoval address => Sys2Proof.Machine.execEntryRemoval address s
  | .duplicateExpiry => Sys2Proof.Machine.execDuplicateExpiry s
  | .consistRecord t frame => Sys2Proof.Machine.execConsistRecord t frame s
  | .slotExpiry e => Sys2Proof.Machine.execSlotExpiry e s
  | .noCabStale => Sys2Proof.Machine.execNoCabStale s
  | .noCabLost => Sys2Proof.Machine.execNoCabLost s
  | .windowExpiry => Sys2Proof.Machine.execWindowExpiry s
  | .bidTimeout => Sys2Proof.Machine.execBidTimeout s
  | .holdoffExpiry => Sys2Proof.Machine.execHoldoffExpiry s
  | .heatedTimeReached => Sys2Proof.Machine.execHeatedTimeReached s
  | .preheatTimeout => Sys2Proof.Machine.execPreheatTimeout s
  | .transitTimeout => Sys2Proof.Machine.execTransitTimeout s
  | .retargetPauseEnd => Sys2Proof.Machine.execRetargetPauseEnd s
  | .endSwitchChange t acClosed dcClosed => Sys2Proof.Machine.execEndSwitchChange t acClosed dcClosed s
  | .breakerFeedbackChange t closed => Sys2Proof.Machine.execBreakerFeedbackChange t closed s
  | .breakerDisagreeExpiry => Sys2Proof.Machine.execBreakerDisagreeExpiry s
  | .currentSample t p v => Sys2Proof.Machine.execCurrentSample t p v s
  | .assessmentExpiry => Sys2Proof.Machine.execAssessmentExpiry s
  | .weatherReading t r => Sys2Proof.Machine.execWeatherReading t r s
  | .pwmPeriodExpiry l => Sys2Proof.Machine.execPwmPeriodExpiry l s
  | .pwmOnPartEnd l => Sys2Proof.Machine.execPwmOnPartEnd l s
  | .heaterFeedbackChange t l current => Sys2Proof.Machine.execHeaterFeedbackChange t l current s
  | .heaterDisagreeExpiry l => Sys2Proof.Machine.execHeaterDisagreeExpiry l s
  | .ackCause t frame => Sys2Proof.Machine.execAckCause t frame s
  | .isolate t frame => Sys2Proof.Machine.execIsolate t frame s
  | .restore t frame => Sys2Proof.Machine.execRestore t frame s
  | .unlockEnable t frame => Sys2Proof.Machine.execUnlockEnable t frame s
  | .unlock t frame => Sys2Proof.Machine.execUnlock t frame s
  | .clearArcs t frame => Sys2Proof.Machine.execClearArcs t frame s
  | .restart t frame => Sys2Proof.Machine.execRestart t frame s
  | .cadenceExpiry => Sys2Proof.Machine.execCadenceExpiry s
  | .spacingExpiry => Sys2Proof.Machine.execSpacingExpiry s
  | .attemptStart t bits => Sys2Proof.Machine.execAttemptStart t bits s
  | .collision t bit => Sys2Proof.Machine.execCollision t bit s
  | .success t => Sys2Proof.Machine.execSuccess t s
  | .lineActiveTimeout t => Sys2Proof.Machine.execLineActiveTimeout t s
  | .lineIdle t => Sys2Proof.Machine.execLineIdle t s
  | .listenExpiry => Sys2Proof.Machine.execListenExpiry s
  | .adoptTimeout => Sys2Proof.Machine.execAdoptTimeout s
  | .powerOnResetAsserted t => Sys2Proof.Machine.execPowerOnResetAsserted t s
  | .frameDiscarded t frame ending => Sys2Proof.Machine.execFrameDiscarded t frame ending s

end Sys2Proof.Machine
end

