-- ==== Sys2Proof/Safety.lean ====
section
/-! DEFINITION. What claims are stated in: the kinds of commands, and for each block what a state that a run reaches
satisfies. -/

namespace Sys2Proof

/-! ## Kinds of commands -/

/-- The two commands of the power-on reset input (R180). -/
def Instr.isPower : Instr → Bool
  | .powerOn _ _ _ => true
  | .powerOnResetAsserted _ => true
  | _ => false

/-- The commands that bring a received frame (R155). -/
def Instr.bringsFrame : Instr → Bool
  | .statusRecord _ _ => true
  | .duplicateRecord _ _ => true
  | .consistRecord _ _ => true
  | .ackCause _ _ => true
  | .isolate _ _ => true
  | .restore _ _ => true
  | .unlockEnable _ _ => true
  | .unlock _ _ => true
  | .clearArcs _ _ => true
  | .restart _ _ => true
  | .frameDiscarded _ _ _ => true
  | _ => false

/-- The commands of the line sense unit (R30, R34). -/
def Instr.isLineSense : Instr → Bool
  | .lineSample _ _ => true
  | .gateEnd => true
  | _ => false

/-- The commands of the arc monitor (R106, R112). -/
def Instr.isArc : Instr → Bool
  | .currentSample _ _ _ => true
  | .assessmentExpiry => true
  | _ => false

/-- The commands that write a lockout cell, or begin or end such a write, of their own (R15, R23). -/
def Instr.isCell : Instr → Bool
  | .autoDrop _ => true
  | .cellWriteComplete _ _ _ => true
  | _ => false

/-- The commands that age or remove a peer table entry (R44, R46). -/
def Instr.agesTable : Instr → Bool
  | .entryStale _ => true
  | .entryRemoval _ => true
  | _ => false

namespace Machine

/-! ## Pantograph drive -/

/-- The angle stays in its range and reads 0 while the rest switch is closed (R4). -/
def Drive.angleOk (d : Drive) : Prop := d.angle ≤ 4095 ∧ (d.restClosed = true → d.angle = 0)

/-- The valve outputs follow the state (R8), and the target lies in its range (R7). -/
def Drive.valvesOk (d : Drive) : Prop :=
  250 ≤ d.target ∧ d.target ≤ 550 ∧
    (d.state = .down ∨ d.state.inBid = true → d.setpoint = .held 0 ∧ d.dump = false) ∧
    (d.state.up = true → d.setpoint = .held d.target ∧ d.dump = false) ∧
    (d.state = .fallingFast ∨ d.state = .dropped → d.setpoint = .held 0 ∧ d.dump = true)

/-- Flags, tag and timers stand only in the states that use them (R1, R2, R9, R10, R13, R14, R16, R18, R20), and FALLING and
DROPPED end at the rest (R16, R20). -/
def Drive.courseOk (d : Drive) : Prop :=
  (d.fitted = false → d.state = .down) ∧
    (d.state = .down → d.tag = none) ∧
    (d.state.inBid = true ∨ d.state.up = true → d.tag.isSome = true) ∧
    (d.capture = true ↔ d.state = .contact) ∧
    (d.armed = true → d.state.up = true) ∧
    (d.dropInterval.isSome = true → d.armed = true) ∧
    (d.raiseTimer.isSome = true → d.state = .rising) ∧
    (d.wireLoss.isSome = true → d.state = .contact) ∧
    (d.breakerWait.isSome = true → d.state = .fallingNormal) ∧
    (d.lowerTimer.isSome = true → d.state.falling = true) ∧
    (d.dropTimer.isSome = true → d.state = .dropped) ∧
    (d.state.falling = true ∨ d.state = .dropped → d.restClosed = false)

def State.anglesOk (s : State) : Prop := s.drive1.angleOk ∧ s.drive2.angleOk
def State.valvesOk (s : State) : Prop := s.drive1.valvesOk ∧ s.drive2.valvesOk
def State.coursesOk (s : State) : Prop := s.drive1.courseOk ∧ s.drive2.courseOk

/-! ## Line sense unit -/

/-- The counters of the gate in progress and the runs lie in their ranges (2.1). -/
def State.senseOk (s : State) : Prop :=
  s.sense.position ≤ 480 ∧ s.sense.crossings ≤ 63 ∧ s.sense.sum ≤ 600 * s.sense.position ∧
    s.sense.unknownRun ≤ 255 ∧ s.sense.deadRun ≤ 255 ∧ (s.sense.older.isSome = true → s.sense.newer.isSome = true)

/-! ## Peer view -/

/-- The peer table holds addresses 1..16 other than the own, no two the same (R43). -/
def State.tableOk (s : State) : Prop :=
  s.view.table.Pairwise (fun x y => x.address < y.address) ∧
    ∀ e ∈ s.view.table, 1 ≤ e.address ∧ e.address ≤ 16 ∧ e.address ≠ s.start.address

/-! ## Changeover controller -/

/-- The breaker request is CLOSE only in STEADY (R101); the motor turns toward the target exactly in a transit, outside a
retarget pause and under an open feedback (R98); the position is MOVING exactly while there is a target (R98, R99), and
there is one only in SELECTING (R93); the disagreement timer runs only while request and feedback disagree (R103). -/
def State.changeoverOk (s : State) : Prop :=
  (s.chg.close = true → s.chg.phase = .steady) ∧
    (∀ side, s.chg.motor = .toward side ↔
      s.chg.target = some side ∧ s.chg.transit.isSome = true ∧ s.chg.pause = none ∧ s.chg.closed = false) ∧
    (s.chg.selector = .moving ↔ s.chg.target.isSome = true) ∧
    (s.chg.target.isSome = true → s.chg.phase = .selecting) ∧
    (s.chg.transit.isSome = true ∨ s.chg.pause.isSome = true → s.chg.target.isSome = true) ∧
    (s.chg.disagree.isSome = true → s.chg.agree = false)

/-! ## Arc monitor -/

/-- The arc record's bounds (R110) and the mean of the window (R106). -/
def Channel.ok (c : Channel) : Prop :=
  c.arcs ≤ 255 ∧ c.longArcs ≤ 15 ∧ c.longArcs ≤ c.arcs ∧ (c.firstLong.isSome = true → c.firstArc.isSome = true) ∧
    c.window.length = 400 ∧ (∀ x ∈ c.window, x ≤ 4095) ∧ c.mean = c.window.sum / 400

/-- Both channels, the second count and the arc ring (R106, R110, R111, R112). -/
def State.arcOk (s : State) : Prop :=
  s.arc.ch1.ok ∧ s.arc.ch2.ok ∧ s.arc.second ≤ 255 ∧ s.arc.ring.length = 10 ∧ ∀ x ∈ s.arc.ring, x ≤ 255

/-! ## Ice and heating unit -/

/-- A load in PWM has a duty of 1..99 per cent and a period that runs; one that is not has neither period, pending duty
nor on part (R130, R131). -/
def LoadState.ok (x : LoadState) : Prop :=
  match x.output with
  | .pwm duty => 1 ≤ duty ∧ duty ≤ 99 ∧ x.period.isSome = true ∧ ∀ d ∈ x.pendingDuty, 1 ≤ d ∧ d ≤ 99
  | .off => x.period = none ∧ x.pendingDuty = none ∧ x.onPart = false
  | .on => x.period = none ∧ x.pendingDuty = none ∧ x.onPart = false

/-- The index stays in its range (R118); the level is HEAVY while the saturation flag is set (R119); the grant never
exceeds the claim (R128); every output is OFF while the force-off is held (R133); the loads are in order. -/
def State.heatOk (s : State) : Prop :=
  s.heat.index ≤ 1048575 ∧ (s.heat.saturated = true → s.heat.level = .heavy) ∧ s.heat.grant ≤ s.heat.claim ∧
    (s.heat.forceOff = true → ∀ l, (s.heat.load l).output = .off) ∧ ∀ l, (s.heat.load l).ok

/-! ## Attention unit -/

/-- The level is the lowest default level of the detected causes, the leading cause the first of them at that level, and
every detected cause is latched (R143). -/
def State.attentionOk (s : State) : Prop :=
  s.att.level = lowestLevel (Cause.all.filter (CauseSet.has s.att.detected)) ∧
    s.att.leading = leadingOf (Cause.all.filter (CauseSet.has s.att.detected)) s.att.level ∧
    ∀ c, CauseSet.has s.att.detected c = true → CauseSet.has s.att.latched c = true

/-! ## Roof line port -/

/-- Counts in their ranges; a snapshot and an outdated mark only with a pending frame, a frame in SENDING always with its
snapshot (9.1, R160 to R164); nothing pending and no cadence in LISTEN (R169); the line measures do not lie ahead (R154);
and the line is active under an own attempt, a reception and the hold (R155, R162, R166). -/
def State.portOk (s : State) : Prop :=
  s.port.attempts ≤ 7 ∧ s.port.abandonRun ≤ 255 ∧
    (s.port.frame = .none → s.port.snapshot = none ∧ s.port.outdated = false ∧ s.port.attempts = 0) ∧
    (s.port.frame = .sending → s.port.snapshot.isSome = true) ∧
    (s.port.outdated = true → s.port.snapshot.isSome = true) ∧
    (s.start.mode = .listen → s.port.frame = .none ∧ s.port.cadence = .stopped) ∧
    s.port.idleFrom ≤ s.now ∧ (∀ m, s.port.activeFrom = some m → m ≤ s.now) ∧
    (s.port.frame = .sending → s.port.activeFrom.isSome = true ∧ s.port.reception = none) ∧
    (s.port.hold = true ∨ s.port.reception.isSome = true → s.port.activeFrom.isSome = true)

/-! ## Start-up control -/

/-- Every field of a configuration lies in its range, its window is in order, and its enables are of maskable causes
(R175). -/
def Settings.inRange (c : Settings) : Prop :=
  c.budget ≤ 4000 ∧ 180 ≤ c.carLength ∧ c.carLength ≤ 300 ∧ c.spacingBase ≤ 300 ∧ c.spacingGain ≤ 100 ∧
    (∀ x, 1 ≤ c.raiseLimit x ∧ c.raiseLimit x ≤ 6) ∧ 300 ≤ c.basePress ∧ c.basePress ≤ 500 ∧ c.aero ≤ 100 ∧
    500 ≤ c.windowLow ∧ c.windowLow < c.windowHigh ∧ c.windowHigh ≤ 3700 ∧ c.preheat ≤ 120 ∧
    c.enables &&& maskableSet = c.enables

/-- Strap values in their ranges (R171), positions within 0..1023 (R172), the configuration in range (R175), and the start
states and timers as R173 to R176 give them. -/
def State.startOk (s : State) : Prop :=
  1 ≤ s.start.address ∧ s.start.address ≤ 16 ∧ s.start.carIndex ≤ 31 ∧ s.start.insCode ≤ 3 ∧ s.start.headCode ≤ 3 ∧
    s.start.pos1 ≤ 1023 ∧ s.start.pos2 ≤ 1023 ∧ s.start.config.inRange ∧
    (s.start.configState = .unfrozen → s.start.config = .default ∧ s.start.pos1 = 0 ∧ s.start.pos2 = 0) ∧
    (s.start.mode = .adopt → s.start.configState = .unfrozen) ∧
    (s.start.mode = .run → s.start.configState ≠ .unfrozen) ∧
    (s.start.adopt.isSome = true → s.start.mode = .adopt) ∧
    (s.start.listen.isSome = true → s.start.mode = .listen)

/-! ## The station -/

/-- A state that a run can be in, as far as each block's own rules say. -/
def State.good (s : State) : Prop :=
  s.anglesOk ∧ s.valvesOk ∧ s.coursesOk ∧ s.senseOk ∧ s.tableOk ∧ s.changeoverOk ∧ s.arcOk ∧ s.heatOk ∧ s.attentionOk ∧
    s.portOk ∧ s.startOk

/-- Everything the last command asked for inside the station has been done (entry 6). -/
def State.settled (s : State) : Prop := s.inFlight = []

/-! ## What holds between the blocks when a command is done -/

/-- The pantograph is in BIDDING, PREHEAT, RISING or CONTACT (R62). -/
def Drive.engaged (d : Drive) : Bool := d.state.inBid || d.state.up

/-- At most one pantograph of the station is in BIDDING, PREHEAT, RISING or CONTACT (R62). -/
def State.oneEngaged (s : State) : Prop := ¬(s.drive1.engaged = true ∧ s.drive2.engaged = true)

/-- A pantograph whose isolate flag or drop lockout is set is in DOWN, FALLING or DROPPED (R22, R72). -/
def State.barredRest (s : State) : Prop :=
  ∀ p, ((s.drive p).isolate = true ∨ (s.drive p).lockout = true) → (s.drive p).engaged = false

/-- At level 0 or 1 no pantograph is in BIDDING, PREHEAT, RISING or CONTACT, and the request is OPEN (R146). -/
def State.protected (s : State) : Prop :=
  s.att.level ≤ 1 → (∀ p, (s.drive p).engaged = false) ∧ s.chg.close = false

/-- CLOSE only in STEADY, with the confirmed class equal to the demanded system (R101). -/
def State.closeConfirmed (s : State) : Prop :=
  s.chg.close = true → s.chg.phase = .steady ∧ s.sense.confirmed.isSystem s.view.heldValues.system = true

/-- The sum of the ratings of the fitted loads without a failed mark (R128). -/
def State.soundRatings (s : State) : Nat :=
  ((allLoads.filter fun l => loadFitted s l && !(s.heat.load l).failed).map (rating s)).sum

/-- The grant never exceeds the claim, the claim never exceeds the sound ratings (R128), and both are 0 while the breaker
feedback shows open, the level is 3 or lower, or the selector is MOVING or LOST (R125). -/
def State.claimBounded (s : State) : Prop :=
  s.heat.grant ≤ s.heat.claim ∧ s.heat.claim ≤ s.soundRatings ∧
    (s.chg.closed = false ∨ s.att.level ≤ 3 ∨ s.chg.selector = .moving ∨ s.chg.selector = .lost →
      s.heat.claim = 0 ∧ s.heat.grant = 0)

/-- A load's output is the one of its share, in PWM with the duty of the period or the one that waits (R130, R131). -/
def LoadState.follows (x : LoadState) : Share → Prop
  | .off => x.output = .off
  | .full => x.output = .on
  | .part d =>
    match x.output with
    | .pwm cur => x.pendingDuty.getD cur = d
    | .off | .on => False

/-- Claim and grant are those of the station as it stands (R124, R125, R128), the force-off is held at level 0 (R133), and
every load follows its share (R130). -/
def State.heatingRight (s : State) : Prop :=
  s.heat.claim = claimOf s ∧ s.heat.grant = grantOf s s.heat.claim ∧ (s.heat.forceOff = true ↔ s.att.level = 0) ∧
    ∀ l, (s.heat.load l).follows (if s.heat.forceOff = true then .off else shareOf s s.heat.grant l)

/-- The pressure target of each drive record is the one of the configuration, the speed, the de-ice mode, the ice level and
the state as they stand (R7). -/
def State.targetsRight (s : State) : Prop := ∀ p, (s.drive p).target = targetFor s (s.drive p)

/-- The detected causes are the latched ones that are enabled and not phase-masked (R141, R142, R143). -/
def State.detectedRight (s : State) : Prop :=
  ∀ c, CauseSet.has s.att.detected c = true ↔
    CauseSet.has s.att.latched c = true ∧
      (c.maskable = true → CauseSet.has s.start.config.enables c = true) ∧
      (c = .senseDisagree ∨ c = .lineDead → s.chg.phase = .steady ∨ s.chg.phase = .confirming)

/-- The source mode is SOLE of the one active-fresh slot, whose last record is obeyed with its speed clamped, CONFLICT under
two, and GAP, STALE or LOST under none (R52, R53, R54); in CONFLICT the demand obeyed is RAISE only where both ask for it
(R53). -/
def State.sourceRight (s : State) : Prop :=
  (∀ e, s.view.mode = .sole e ↔ (s.view.slot e).activeFresh = true ∧ (s.view.slot e.other).activeFresh = false) ∧
    (s.view.mode = .conflict ↔ s.view.slotA.activeFresh = true ∧ s.view.slotB.activeFresh = true) ∧
    (∀ e r, s.view.mode = .sole e → (s.view.slot e).record = some r →
      s.view.heldValues = { demand := r.demand, system := r.system, direction := r.direction, deIce := r.deIce,
                            speed := min 400 r.speed, marker := r.marker }) ∧
    (∀ x y, s.view.mode = .conflict → s.view.slotA.record = some x → s.view.slotB.record = some y →
      (s.view.demand = .raise ↔ x.demand = .raise ∧ y.demand = .raise) ∧
        (s.view.demand ≠ .raise → s.view.demand = .lower)) ∧
    ((s.view.slotA.activeFresh = true → s.view.slotA.record.isSome = true) ∧
      (s.view.slotB.activeFresh = true → s.view.slotB.record.isSome = true)) ∧
    (s.view.noCab.isSome = true → s.view.mode.noCab = true)

/-- No ground of a return stands against pantograph `p` in BIDDING or PREHEAT (R72, R73), the selector aside: the demand is
RAISE and not stale, nor in conflict while the pantograph is in BIDDING; the demanded system is its tag; the level is 3 or
more; the phase is STEADY, READY or CONFIRMING. -/
def State.bidStands (s : State) (p : Panto) : Prop :=
  s.view.demand = .raise ∧ s.view.mode ≠ .stale ∧ s.view.mode ≠ .lost ∧
    ((s.drive p).state = .bidding → s.view.mode ≠ .conflict) ∧ s.view.heldValues.system = (s.drive p).tag ∧
    3 ≤ s.att.level ∧ (s.chg.phase = .steady ∨ s.chg.phase = .ready ∨ s.chg.phase = .confirming)

/-- The selector reports the side that serves the tag of every pantograph in BIDDING, PREHEAT, RISING or CONTACT (R72, R99),
and one in BIDDING or PREHEAT is the admission unit's bidder (R62), with no ground of a return against it (R72, R73). -/
def State.engagedServed (s : State) : Prop :=
  ∀ p, (s.drive p).engaged = true →
    ((s.drive p).state.inBid = true → s.adm.bidder = some p ∧ s.bidStands p) ∧
      ∃ x, (s.drive p).tag = some x ∧ s.chg.selector = .onSide x.side

/-- The channel of a pantograph is OFF exactly while the pantograph is not in CONTACT under a closed feedback (R107). -/
def State.watchesRight (s : State) : Prop :=
  ∀ p, (s.arc.channel p).watch = .off ↔
    ¬((s.drive p).fitted = true ∧ (s.drive p).state = .contact ∧ s.chg.closed = true)

/-- The bidder is in PREHEAT. -/
def State.preheats (s : State) (p : Panto) : Prop := s.adm.bidder = some p ∧ (s.drive p).state = .preheat

/-- In PREHEAT the heated time runs exactly while the head heater's output is on (R76). -/
def State.heatedRight (s : State) : Prop :=
  ∀ p, s.preheats p → (s.adm.heatedSince.isSome = true ↔ (s.heat.load (.head p)).isOn = true) ∧
    ∀ m, s.adm.heatedSince = some m → m ≤ s.now

/-- The heated time up to now (R76): the stored total and the time since the last report of on. -/
def State.heatedTime (s : State) : Time := s.adm.heated + (s.adm.heatedSince.map fun m => s.now - m).getD 0

/-! ## What single commands leave -/

/-- No bid can start with a pantograph that comes to rest now: the demand is not RAISE, the holdoff runs, or the open bid is
its own, whose end starts the holdoff (R63, R74). -/
def State.noBidFor (s : State) (p : Panto) : Prop :=
  s.view.demand ≠ .raise ∨ s.adm.holdoff.isSome = true ∨ s.adm.openBid = some p

/-- What a lowering of pantograph `p` with outcome `o` leaves of it (R16, R17, R18, R20): off its rest it falls, at the pace
of the lowering or of a fast one that met it in the same event, with its tag; at rest it is in DOWN at once. -/
def State.lowered (s : State) (p : Panto) (o : POutcome) (u : State) : Prop :=
  ((u.drive p).restClosed = false →
    ((u.drive p).state = .fallingNormal ∧ (u.drive p).lowerTimer = some (u.now + 10000000) ∧ (u.drive p).dump = (s.drive p).dump ∨
      (u.drive p).state = .fallingFast ∧ (u.drive p).lowerTimer = some (u.now + 4000000) ∧ (u.drive p).dump = true) ∧
    (u.drive p).outcome = o ∧ (u.drive p).tag = (s.drive p).tag ∧ (u.drive p).capture = false ∧
    (u.drive p).armed = false ∧ (u.drive p).raiseTimer = none ∧ (u.drive p).wireLoss = none ∧
    (u.drive p).dropInterval = none) ∧
  ((u.drive p).restClosed = true → s.noBidFor p →
    (u.drive p).state = .down ∧ (u.drive p).outcome = o ∧ (u.drive p).tag = none ∧ (u.drive p).setpoint = .held 0 ∧
    (u.drive p).dump = false ∧ (u.drive p).capture = false ∧ (u.drive p).armed = false ∧
    (u.drive p).lowerTimer = none)

/-- A lowering of pantograph `p` that the drive brings about itself is a normal one, where level and detected causes are of one
piece before it, so that no level change makes it fast (R11, R12, R13, R19, R145). -/
def State.loweredNormally (s : State) (p : Panto) (u : State) : Prop :=
  s.attentionOk → s.detectedRight → (u.drive p).restClosed = false → (u.drive p).state = .fallingNormal

/-- Pantograph `p` has met a change of the level to 0 (R17, R19, R145): off its rest, one that was up falls fast with PROTECT,
and one in FALLING normal falls fast with the outcome it had. -/
def State.fallsFast (s : State) (p : Panto) (u : State) : Prop :=
  (s.drive p).restClosed = false → (s.drive p).state.up = true ∨ (s.drive p).state = .fallingNormal →
    (u.drive p).state = .fallingFast ∧ (u.drive p).setpoint = .held 0 ∧ (u.drive p).dump = true ∧
    (u.drive p).lowerTimer = some (u.now + 4 * Config.second) ∧ (u.drive p).breakerWait = none ∧
    (u.drive p).outcome = if (s.drive p).state.up then .protect else (s.drive p).outcome

/-- Pantograph `p`, up and off its rest, has met the entry to LOST (R55, R146): a normal lowering with PROTECT and the request
OPEN where DEMAND_LOST is enabled, and nothing where it is not, outside the phases whose exits a change of the mode tests. -/
def State.metDemandLost (s : State) (p : Panto) (u : State) : Prop :=
  (s.drive p).fitted = true → (s.drive p).state.up = true → (s.drive p).restClosed = false →
    (CauseSet.has s.start.config.enables .demandLost = true →
      (u.drive p).state = .fallingNormal ∧ (u.drive p).outcome = .protect ∧ u.chg.close = false) ∧
    (CauseSet.has s.start.config.enables .demandLost = false → s.chg.phase ≠ .unset → s.chg.phase ≠ .clear →
      (u.drive p).state = (s.drive p).state ∧ (u.drive p).outcome = (s.drive p).outcome)

/-- No pantograph in RISING or CONTACT lies on its rest, so that a lowering leaves it in FALLING for a while (R20). -/
def State.raisedOffRest (s : State) : Prop := ∀ p, (s.drive p).state.up = true → (s.drive p).restClosed = false

/-- Something holds PREPARING (R91): a closed feedback, or a fitted pantograph that is up or falling. -/
def State.notYetSafe (s : State) : Prop :=
  s.chg.closed = true ∨
    ∃ p, (s.drive p).fitted = true ∧ ((s.drive p).state.up = true ∨ (s.drive p).state.falling = true)

/-- The phase to which the exits of UNSET and CLEAR lead (R87, R92), `here` where none is open; a transit that finds the
reading valid for its side arrives at once (R98). -/
def State.exitTo (s : State) (here : Phase) : Phase :=
  match s.view.heldValues.system with
  | none => here
  | some x =>
    if s.sense.confirmed = .dead then
      if s.chg.selector = .onSide x.side then .ready
      else if CauseSet.has s.att.latched .selectorFail = true then here
      else if s.chg.validFor x.side = true then .ready
      else .selecting
    else if s.sense.confirmed = .sys x ∧ s.chg.selector = .onSide x.side then .confirming
    else here

/-- A consist record leads the phase to PREPARING (R88, R94, R95). -/
def State.preparesAt (s : State) (r : ConsistRecord) : Prop :=
  s.chg.phase = .steady ∧
      (r.demand = .prepare ∧ r.demand ≠ s.view.heldValues.demand ∨
        r.system ≠ s.view.heldValues.system ∧ s.sense.confirmed.isSystem r.system = false) ∨
    s.chg.phase = .confirming ∧
      (r.demand = .prepare ∧ r.demand ≠ s.view.heldValues.demand ∨ r.system ≠ s.view.heldValues.system) ∨
    s.chg.phase = .mismatch ∧ r.system ≠ s.view.heldValues.system

/-- No fresh peer is in DROPPED, no acknowledged PEER_DROP_AHEAD waits for its end and no line-dead condition stands, so that
nothing meets a pantograph as it rises. -/
def State.clearAhead (s : State) : Prop :=
  s.chg.lineDead = false ∧ CauseSet.has s.att.pending .peerDropAhead = false ∧ ∀ e ∈ s.view.table, e.stale = false → ∀ q, (e.record.panto q).state ≠ .dropped

/-- Pantograph `p` begins its rise (R9), or falls again where a lowering meets it. It stands in RISING at any angle: the
upper stop of R11 is not tested at the entry (entry 42, the model's choice). -/
def State.risesOrFalls (s : State) (p : Panto) (u : State) : Prop :=
  ((s.drive p).fitted = true → s.clearAhead → mustYield s p = false →
    (u.drive p).state = .rising ∧ (u.drive p).raiseTimer = some (u.now + 8 * Config.second) ∧
    (u.drive p).setpoint = .held (u.drive p).target ∧ (u.drive p).tag = (s.drive p).tag ∧ u.adm.bidder = none) ∧
  ((s.drive p).restClosed = false →
    (u.drive p).tag = (s.drive p).tag ∧ u.adm.bidder = none ∧
    ((u.drive p).state = .rising ∧ (u.drive p).raiseTimer = some (u.now + 8 * Config.second) ∨
      (u.drive p).state = .fallingNormal ∨ (u.drive p).state = .fallingFast))

/-- The end of PREHEAT (R76); the rise is that of `State.risesOrFalls` (entry 42). -/
def State.preheatEnded (s : State) (p : Panto) (u : State) : Prop :=
  s.risesOrFalls p u ∧ ((s.drive p).restClosed = false → u.adm.preheatTimer = none)

/-- What an admitted bidder does (R70, R75), the conditions of preheat read in `w`; the rise is that of
`State.risesOrFalls` (entry 42). -/
def State.bidAdmitted (s w : State) (p : Panto) (u : State) : Prop :=
  (preheatApplies w p = true → s.chg.lineDead = false →
    (u.drive p).state = .preheat ∧ (u.drive p).tag = (s.drive p).tag ∧ (u.drive p).setpoint = (s.drive p).setpoint ∧
    u.adm.bidder = some p ∧ u.adm.bidTimer = none ∧ u.adm.heated = 0 ∧
    u.adm.preheatTimer = some (u.now + 3 * (s.start.config.preheat * Config.second))) ∧
  (preheatApplies w p = false → s.risesOrFalls p u)

/-- Pantograph `p` has been returned from BIDDING or PREHEAT with outcome `o` (R71 to R73, R79): no bidder, no timer of a bid,
the holdoff begun. One that has crept meets the creep test of DOWN and is lowered (R6, entry 37). -/
def State.bidReturned (s : State) (p : Panto) (o : POutcome) (u : State) : Prop :=
  u.adm.bidder = none ∧ u.adm.openBid = none ∧ u.adm.windowTimer = none ∧ u.adm.bidTimer = none ∧
  u.adm.preheatTimer = none ∧ u.adm.holdoff = some (u.now + 1 * Config.second) ∧
  ((s.drive p).angle ≤ 40 → (u.drive p).state = .down ∧ (u.drive p).tag = none ∧ (u.drive p).outcome = o) ∧
  (40 < (s.drive p).angle → (s.drive p).restClosed = false →
    ((u.drive p).state = .fallingNormal ∨ (u.drive p).state = .fallingFast) ∧ (u.drive p).outcome = .lowered)

/-- What the yield test leaves of pantograph `p`, read in `w` (R79): one that is up and must yield falls with YIELDED, one in
PREHEAT is returned with it. -/
def State.yields (s w : State) (p : Panto) (u : State) : Prop :=
  ((s.drive p).state.up = true → mustYield w p = true → (s.drive p).restClosed = false →
    (u.drive p).state.falling = true ∧ (u.drive p).outcome = .yielded) ∧
  ((s.drive p).state = .preheat → s.adm.bidder = some p → mustYield w p = true → s.bidReturned p .yielded u)

/-- What the drop-ahead evaluation leaves of a pantograph `p` that is up and need not yield, read in `w` (R81, R82). -/
def State.meetsDropAhead (s w : State) (p : Panto) (u : State) : Prop :=
  (dropAheadStands w = true → CauseSet.has s.att.pending .peerDropAhead = false →
    CauseSet.has u.att.latched .peerDropAhead = true ∧
    (CauseSet.has s.start.config.enables .peerDropAhead = true → (s.drive p).restClosed = false →
      (u.drive p).state.falling = true ∧ (u.drive p).outcome = .protect) ∧
    (CauseSet.has s.start.config.enables .peerDropAhead = false →
      (u.drive p).state = (s.drive p).state ∧ u.adm.dropAhead = true)) ∧
  (dropAheadStands w = false → u.adm.dropAhead = false ∧
    (CauseSet.has s.att.pending .peerDropAhead = false →
      (u.drive p).state = (s.drive p).state ∧ (u.drive p).outcome = (s.drive p).outcome) ∧
    (CauseSet.has s.att.pending .peerDropAhead = true → u.settled → CauseSet.has u.att.latched .peerDropAhead = false))

/-- CONTACT as R10 enters it. -/
def Drive.contactMade (d : Drive) : Prop :=
  d.state = .contact ∧ d.capture = true ∧ d.outcome = .raised ∧ d.raiseTimer = none

/-- Contact as it stands when a command is done: CONTACT as R10 enters it, or FALLING where the same event also brought a
lowering request. -/
def Drive.contactTaken (d : Drive) : Prop :=
  d.contactMade ∨ (d.state = .fallingNormal ∨ d.state = .fallingFast) ∧ d.capture = false

/-- What contact leaves of pantograph `p` (R10), where level and detected causes are of one piece before it: CONTACT, unless
the evaluation that follows (R81) finds a peer drop ahead and the cause is enabled, which lowers it with PROTECT. -/
def State.contactLeaves (s : State) (p : Panto) (u : State) : Prop :=
  (u.drive p).contactTaken ∧
    (s.attentionOk → s.detectedRight →
      (dropAheadStands s = false ∨ CauseSet.has s.start.config.enables .peerDropAhead = false →
        (u.drive p).contactMade) ∧
      (s.protected → dropAheadStands s = true → CauseSet.has s.start.config.enables .peerDropAhead = true →
        (u.drive p).state = .fallingNormal ∧ (u.drive p).outcome = .protect))

/-- The position of an own pantograph under a car length of `d` decimetres (R172). -/
def State.positionUnder (s : State) (p : Panto) (d : Nat) : Nat :=
  if (s.drive p).fitted = false then 0
  else if s.start.rear p then s.start.carIndex * d / 10 + d / 10 - 4 else s.start.carIndex * d / 10 + 4

/-- The station after a frame has ended on the line, before the frame is looked at: the clock and the line measures. -/
def State.afterFrame (s : State) (t : Time) (f : List Byte) : State :=
  (s.advance t).withPort (s.port.heard (max s.now t) f)

/-- The port receives a frame that ends at `t` (R155): the line, as the port has seen it, had been idle for 48 bit times when
the frame began, 10 bit times for each byte before its end; or the frame is the one that the port went on receiving at a
collision of its own attempt (R158, R162), begun at the same moment. -/
def State.hears (s : State) (t : Time) (f : List Byte) : Prop :=
  s.port.frame ≠ .sending ∧
    (s.port.activeFrom = none ∧ s.port.idleFrom + 96 + 20 * f.length ≤ max s.now t ∨
      ∃ m pre, s.port.activeFrom = some m ∧ s.port.reception = some pre ∧ m + 20 * f.length = max s.now t ∧ pre <+: f)

/-- An attempt may begin at `t` (R162): a frame waits in a state that sends, nothing is in reception or on the line, the
transmit hold is released, the idle measure has reached 48 bit times, or 48 + 16 × address of them for a retry, and a frame due
by a change does not wait for its spacing. -/
def State.attemptAllowed (s : State) (t : Time) : Prop :=
  s.port.frame = .waiting ∧ s.start.mode ≠ .listen ∧ s.port.hold = false ∧ s.port.reception = none ∧
    s.port.activeFrom = none ∧
    s.port.idleFrom + 2 * (if s.port.attempts = 0 then 48 else 48 + 16 * s.start.address) ≤ max s.now t ∧
    (s.port.byChange = true → s.port.spacing = none)

/-- The pantograph record at byte `i` of a frame holds codes of its sets (9.4). -/
def pantoCodesFit (f : List Byte) (i : Nat) : Prop :=
  (byteAt f i).toNat / 16 ≤ 2 ∧ (byteAt f i).toNat % 16 ≤ 7 ∧ (byteAt f (i + 1)).toNat ≤ 4 ∧
    (byteAt f (i + 4)).toNat % 16 ≤ 9

/-- The checks of a frame that was read to its end (R155, R157), byte by byte: whole by its own length byte, a good CRC, the
length, the sender and the codes of its kind. -/
def framePasses (f : List Byte) : Prop :=
  f.length = (byteAt f 2).toNat + 5 ∧ crcGood f = true ∧
    ((byteAt f 0).toNat = 1 ∧ (byteAt f 2).toNat = 28 ∧ 1 ≤ (byteAt f 1).toNat ∧ (byteAt f 1).toNat ≤ 16 ∧
        (byteAt f 3).toNat / 16 ≤ 2 ∧ (byteAt f 3).toNat % 16 ≤ 2 ∧ (byteAt f 4).toNat ≤ 7 ∧
        (byteAt f 5).toNat / 16 ≤ 6 ∧ (byteAt f 5).toNat % 16 ≤ 3 ∧
        (byteAt f 6).toNat / 16 ≤ 1 ∧ (byteAt f 6).toNat % 16 ≤ 1 ∧ pantoCodesFit f 7 ∧ pantoCodesFit f 13 ∧
        (byteAt f 23).toNat / 16 ≤ 2 ∧ (byteAt f 23).toNat % 16 ≤ 1 ∧ (byteAt f 29).toNat ≤ 7 ∧
        (byteAt f 30).toNat ≤ 6 ∨
      (byteAt f 0).toNat = 2 ∧ 1 ≤ (byteAt f 1).toNat ∧ (byteAt f 1).toNat ≤ 2 ∧
        (byteAt f 3).toNat / 16 ≤ 1 ∧ (byteAt f 3).toNat % 16 ≤ 2 ∧ (byteAt f 4).toNat ≤ 4 ∧
        (byteAt f 5).toNat / 16 ≤ 1 ∧ (byteAt f 5).toNat % 16 ≤ 2 ∧
        ((byteAt f 10).toNat = 0 ∧ (byteAt f 2).toNat = 8 ∨ (byteAt f 10).toNat = 1 ∧ (byteAt f 2).toNat = 28) ∨
      (byteAt f 0).toNat = 3 ∧ 1 ≤ (byteAt f 1).toNat ∧ (byteAt f 1).toNat ≤ 2 ∧ (byteAt f 2).toNat = 3 ∧
        1 ≤ (byteAt f 4).toNat ∧ (byteAt f 4).toNat ≤ 7)

/-- The commands that bring a frame read to its end, each with the same frame. -/
def frameCommands (t : Time) (f : List Byte) : List Instr :=
  [.statusRecord t f, .duplicateRecord t f, .consistRecord t f, .ackCause t f, .isolate t f, .restore t f,
   .unlockEnable t f, .unlock t f, .clearArcs t f, .restart t f, .frameDiscarded t f .whole]

/-- The seven order commands, each with the same frame. -/
def orderCommands (t : Time) (f : List Byte) : List Instr :=
  [.ackCause t f, .isolate t f, .restore t f, .unlockEnable t f, .unlock t f, .clearArcs t f, .restart t f]

/-- An order is addressed to the station and comes from its sole active cab (R158, R167). -/
def State.takes (s : State) (o : OrderRecord) : Prop :=
  s.view.mode = .sole o.sender ∧
    (o.target = s.start.address ∨ o.target = 0 ∧ (o.kind = .ackCause ∨ o.kind = .clearArcs))

/-- An order's argument names a fitted pantograph (R21, R26). -/
def State.names (s : State) (arg : Nat) (p : Panto) : Prop :=
  (s.drive p).fitted = true ∧ (arg = 1 ∧ p = .p1 ∨ arg = 2 ∧ p = .p2)

/-- RESTART is accepted (R178). -/
def State.mayRestart (s : State) : Prop :=
  s.start.mode = .run ∧ (∀ p, (s.drive p).fitted = true → (s.drive p).state = .down) ∧ s.chg.closed = false

/-- The ways an order that is addressed to the station is refused, in the order of the tests (R167, R150, R21, R26, R178). -/
def State.refuses (s : State) (o : OrderRecord) (x : OrderOutcome) : Prop :=
  if s.view.mode ≠ .sole o.sender then x = .refusedCab
  else if o.target = 0 ∧ o.kind ≠ .ackCause ∧ o.kind ≠ .clearArcs then x = .refusedArg
  else match o.kind with
    | .ackCause => ¬(1 ≤ o.arg ∧ o.arg ≤ 23) ∧ x = .refusedArg
    | .isolate => (∀ p, ¬s.names o.arg p) ∧ x = .refusedArg
    | .restore => (∀ p, ¬s.names o.arg p) ∧ x = .refusedArg
    | .unlockEnable => False
    | .unlock =>
      s.unlock = none ∧ x = .refusedNotEnabled ∨
        s.unlock.isSome = true ∧ (∀ p, ¬s.names o.arg p) ∧ x = .refusedArg ∨
        s.unlock.isSome = true ∧ (∃ p, s.names o.arg p ∧ (s.drive p).state ≠ .down) ∧ x = .refusedState ∨
        s.unlock.isSome = true ∧ (∃ p, s.names o.arg p ∧ (s.drive p).state = .down ∧ (s.drive p).write.isSome = true) ∧
          x = .refusedBusy
    | .clearArcs => False
    | .restart => ¬s.mayRestart ∧ x = .refusedState

/-! ## What no message of one block to another changes -/

/-- The fields of a drive record that no message of another block changes (1.1). -/
structure Drive.Kept (d e : Drive) : Prop where
  headKind : e.headKind = d.headKind
  angle : e.angle = d.angle
  captured : e.captured = d.captured
  isolate : e.isolate = d.isolate
  lockout : e.lockout = d.lockout
  cell : e.cell = d.cell
  write : e.write = d.write
  queued : e.queued = d.queued
  quietTimer : e.quietTimer = d.quietTimer
  encHistory : e.encHistory = d.encHistory
  restClosed : e.restClosed = d.restClosed

/-- The fields of a channel that no message changes (6.1). -/
structure Channel.Kept (c e : Channel) : Prop where
  window : e.window = c.window
  mean : e.mean = c.mean
  threshold : e.threshold = c.threshold
  arcs : e.arcs = c.arcs
  longArcs : e.longArcs = c.longArcs
  firstArc : e.firstArc = c.firstArc
  firstLong : e.firstLong = c.firstLong

/-- The fields of the station that no message changes. -/
structure Kept (s t : State) : Prop where
  now : t.now = s.now
  held : t.held = s.held
  unlock : t.unlock = s.unlock
  sense : t.sense = s.sense
  free : t.free = s.free
  pending : t.pending = s.pending
  drive1 : s.drive1.Kept t.drive1
  drive2 : s.drive2.Kept t.drive2
  table : t.view.table = s.view.table
  slotA : t.view.slotA = s.view.slotA
  slotB : t.view.slotB = s.view.slotB
  dupTimer : t.view.dupTimer = s.view.dupTimer
  ch1 : s.arc.ch1.Kept t.arc.ch1
  ch2 : s.arc.ch2.Kept t.arc.ch2
  second : t.arc.second = s.arc.second
  ring : t.arc.ring = s.arc.ring
  assess : t.arc.assess = s.arc.assess
  temperature : t.heat.temperature = s.heat.temperature
  humidity : t.heat.humidity = s.heat.humidity
  closed : t.chg.closed = s.chg.closed
  endAC : t.chg.endAC = s.chg.endAC
  endDC : t.chg.endDC = s.chg.endDC
  address : t.start.address = s.start.address
  carIndex : t.start.carIndex = s.start.carIndex
  rear1 : t.start.rear1 = s.start.rear1
  rear2 : t.start.rear2 = s.start.rear2
  insCode : t.start.insCode = s.start.insCode
  headCode : t.start.headCode = s.start.headCode
  listen : t.start.listen = s.start.listen
  abandonRun : t.port.abandonRun = s.port.abandonRun
  cadence : t.port.cadence = s.port.cadence
  spacing : t.port.spacing = s.port.spacing
  idleFrom : t.port.idleFrom = s.port.idleFrom
  activeFrom : t.port.activeFrom = s.port.activeFrom
  hold : t.port.hold = s.port.hold
  reception : t.port.reception = s.port.reception
  lastOrder : t.port.lastOrder = s.port.lastOrder
  lastOutcome : t.port.lastOutcome = s.port.lastOutcome

end Machine

end Sys2Proof
end

