-- ==== Sys2Proof/WellFormed.lean ====
section
/-! DEFINITION. Which commands are well formed: the operands lie where the rule of their row can put them. `exec` has a
meaning for every command, well formed or not. -/

namespace Sys2Proof

open Machine

/-- A whole frame is at most three envelope bytes, 255 body bytes and two CRC bytes (R155). -/
def frameFits (f : List Byte) : Bool := decide (f.length ≤ 260)

/-- The frame passes the checks as a status frame (R157). -/
def isStatusFrame (f : List Byte) : Bool :=
  match parseFrame f with
  | some (.status _ _) => true
  | _ => false

/-- The frame passes the checks as a consist frame (R157). -/
def isConsistFrame (f : List Byte) : Bool :=
  match parseFrame f with
  | some (.consist _ _) => true
  | _ => false

/-- The frame passes the checks as an order frame of a kind (R157). -/
def isOrderFrame (k : OrderKind) (f : List Byte) : Bool :=
  match parseFrame f with
  | some (.order o) => o.kind = k
  | _ => false

/-- A station address (R171). -/
def addressFits (a : Nat) : Bool := decide (1 ≤ a) && decide (a ≤ 16)

/-- A bit of a status frame: 33 bytes of 10 bits (9.2). -/
def frameBitFits (bit : Nat) : Bool := decide (bit < 330)

/-- A command is well formed. -/
def Instr.wf : Instr → Bool
  | .powerOn _ _ _ => true
  | .legalTransition _ _ _ => true
  | .illegalTransition _ _ => true
  | .encoderQuietExpiry _ => true
  | .stillnessSpanEnd _ => true
  | .restSwitchClosure _ _ => true
  | .restSwitchOpening _ _ => true
  | .wireLossInterval _ => true
  | .pressureValue _ _ _ => true
  | .referenceTargetExpiry _ => true
  | .autoDrop _ => true
  | .raiseTimeout _ => true
  | .breakerWaitExpiry _ => true
  | .lowerTimerExpiry _ => true
  | .dropTimerExpiry _ => true
  | .cellWriteComplete _ _ _ => true
  | .unlockEnableExpiry => true
  | .lineSample _ _ => true
  | .gateEnd => true
  | .statusRecord _ f => isStatusFrame f
  | .duplicateRecord _ f => isStatusFrame f
  | .entryStale a => addressFits a
  | .entryRemoval a => addressFits a
  | .duplicateExpiry => true
  | .consistRecord _ f => isConsistFrame f
  | .slotExpiry _ => true
  | .noCabStale => true
  | .noCabLost => true
  | .windowExpiry => true
  | .bidTimeout => true
  | .holdoffExpiry => true
  | .heatedTimeReached => true
  | .preheatTimeout => true
  | .transitTimeout => true
  | .retargetPauseEnd => true
  | .endSwitchChange _ _ _ => true
  | .breakerFeedbackChange _ _ => true
  | .breakerDisagreeExpiry => true
  | .currentSample _ _ _ => true
  | .assessmentExpiry => true
  | .weatherReading _ _ => true
  | .pwmPeriodExpiry _ => true
  | .pwmOnPartEnd _ => true
  | .heaterFeedbackChange _ _ _ => true
  | .heaterDisagreeExpiry _ => true
  | .ackCause _ f => isOrderFrame .ackCause f
  | .isolate _ f => isOrderFrame .isolate f
  | .restore _ f => isOrderFrame .restore f
  | .unlockEnable _ f => isOrderFrame .unlockEnable f
  | .unlock _ f => isOrderFrame .unlock f
  | .clearArcs _ f => isOrderFrame .clearArcs f
  | .restart _ f => isOrderFrame .restart f
  | .cadenceExpiry => true
  | .spacingExpiry => true
  | .attemptStart _ _ => true
  | .collision _ bit => frameBitFits bit
  | .success _ => true
  | .lineActiveTimeout _ => true
  | .lineIdle _ => true
  | .listenExpiry => true
  | .adoptTimeout => true
  | .powerOnResetAsserted _ => true
  | .frameDiscarded _ f ending => frameFits f && (ending ≠ .whole || (parseFrame f).isNone)

end Sys2Proof
end

