-- ==== Sys2Proof/Certificates/Slice0/Obligations.lean ====
section
/-! DEFINITION. The statements for the provers. -/

open Sys2Proof Sys2Proof.Machine

/-! ## Stepping, power and reset -/

/-- One step takes the command at the front of the queue and does what the command does with the rest of the queue; on an
empty queue the block idles (entry 4, the model's choice). -/
def Obligations.StepRunsFrontCommand : Prop :=
  (∀ (c : Instr) (rest : List Instr) (s : State), step { s with pending := c :: rest } = exec c { s with pending := rest }) ∧
    ∀ s : State, s.pending = [] → step s = .next s

/-- Every command goes on to a next state, in every state, and leaves the queue of waiting commands as it is. -/
def Obligations.EveryCommandGoesOnAndKeepsQueue : Prop :=
  ∀ (c : Instr) (s : State), ∃ u, exec c s = .next u ∧ u.pending = s.pending

/-- The release of the power-on reset, from a station held in it, gives every block its power-on values (R28, R41, R60,
R83, R104, R115, R137, R152, R170, R171, R173, R180); the read of the cells, P1's first, sets the drop lockouts and the
met mark (R24), and what is latched is LOCKOUT_STORE_FAULT for an unreadable cell and SELECTOR_FAIL for a selector found
between its ends, with the level and the leading cause that follow. Of the values that the rules do not give, the captured
angle, bidStart, the slots' arrival moments, the interruption threshold and length, the derived demand (entry 9) and the
line measures at power-on (entry 14) are the model's choice. -/
def Obligations.ReleaseGivesPowerOnValues : Prop :=
  ∀ (t : Time) (pins : StrapPins) (x : InputLevels) (s : State), s.held = true →
    ∃ u, exec (.powerOn t pins x) s = .next u ∧ u.now = max s.now t ∧ u.held = false ∧ u.settled ∧ u.unlock = none ∧
      u.drive1 = (Drive.initial (headKindOf pins.head1) s.drive1.cell x.rest1).released u.now ∧
      u.drive2 = (Drive.initial (headKindOf pins.head2) s.drive2.cell x.rest2).released u.now ∧
      (∀ p, (u.drive p).lockout = ((u.drive p).fitted && (s.drive p).cell ≠ .clear) ∧ (u.drive p).outcome = .none ∧
        (u.drive p).angle = 0 ∧ (u.drive p).cell = (s.drive p).cell ∧ (u.drive p).write = none ∧
        ((u.drive p).state = if (u.drive p).fitted && !(u.drive p).restClosed then .fallingNormal else .down)) ∧
      u.sense = .initial ∧ u.view = .initial u.now ∧ u.adm = .initial ∧
      u.chg = .initial u.now x.endAC x.endDC x.breaker ∧ u.arc = .initial u.now ∧ u.port = .initial u.now ∧
      u.start = .initial u.now pins ∧ u.heat.index = 0 ∧ u.heat.level = .none ∧ u.heat.claim = 0 ∧ u.heat.grant = 0 ∧
      u.heat.saturated = false ∧ u.heat.temperature = 0 ∧ u.heat.humidity = 0 ∧ u.heat.forceOff = false ∧
      (u.heat.load .insulator).feedback = x.insulator ∧ (u.heat.load (.head .p1)).feedback = x.head1 ∧
      (u.heat.load (.head .p2)).feedback = x.head2 ∧
      (∀ l, (u.heat.load l).output = .off ∧ (u.heat.load l).onPart = false ∧ (u.heat.load l).pendingDuty = none ∧
        (u.heat.load l).period = none ∧ (u.heat.load l).failed = false ∧
        (u.heat.load l).watch =
          if loadFitted u l = true ∧ (u.heat.load l).feedback = true then some (u.now + 2 * Config.second) else none) ∧
      (∀ c, CauseSet.has u.att.latched c = true ↔
        (c = .selectorFail ∧ (x.endAC = x.endDC)) ∨
          (c = .lockoutStoreFault ∧ ∃ p, (u.drive p).fitted = true ∧ (s.drive p).cell = .unreadable)) ∧
      u.att.pending = 0 ∧
      (∀ c, CauseSet.has u.att.met c = true ↔
        c = .lockoutStoreFault ∧
          ((u.drive .p2).fitted = true ∧ (s.drive .p2).cell ≠ .unreadable ∨
            (u.drive .p2).fitted = false ∧ (u.drive .p1).fitted = true ∧ (s.drive .p1).cell ≠ .unreadable)) ∧
      (x.endAC = x.endDC → u.att.level = 2 ∧ u.att.leading = 11) ∧
      (x.endAC ≠ x.endDC → (∃ p, (u.drive p).fitted = true ∧ (s.drive p).cell = .unreadable) →
        u.att.level = 4 ∧ u.att.leading = 23) ∧
      (x.endAC ≠ x.endDC → (∀ p, (u.drive p).fitted = true → (s.drive p).cell ≠ .unreadable) →
        u.att.level = 5 ∧ u.att.leading = 0)

/-- While the power-on reset input is held, the station does nothing (R180): only POWER_ON, its release, acts (entry 5). A
power-on reset that arrives while the station runs abandons everything in progress (R180): the station is held, no cell
write goes on, and a cell whose write was abandoned holds its old value or is unreadable (R23, entry 10), every other cell
what it held. A release that comes while the station runs does the same first (entry 20, the model's choice). -/
def Obligations.ResetInputHoldsTheStation : Prop :=
  (∀ (c : Instr) (s : State), s.held = true → (∀ t pins x, c ≠ .powerOn t pins x) → exec c s = .next s) ∧
  ∀ (t : Time) (s : State), s.held = false →
    ∃ u, exec (.powerOnResetAsserted t) s = .next u ∧ u.now = max s.now t ∧ u.held = true ∧ u.settled ∧
      (∀ p, (u.drive p).write = none ∧ (u.drive p).queued = none ∧ (u.drive p).state = .down ∧
        ((u.drive p).cell = (s.drive p).cell ∨ (u.drive p).cell = .unreadable ∧ (s.drive p).write.isSome = true)) ∧
      u.start.configState = .unfrozen ∧ u.port.frame = .none ∧ u.view.table = [] ∧ u.att.latched = 0 ∧
      ∀ pins x, exec (.powerOn t pins x) s = exec (.powerOn t pins x) u

/-- The state after reset meets every invariant below, nothing waits in it, and it is what the release of the power-on
reset gives from a held station whose cells are CLEAR, with the straps at 0 and the inputs of entry 8. -/
def Obligations.ResetStateIsGood : Prop :=
  State.reset.good ∧ State.reset.settled ∧ State.reset.oneEngaged ∧ State.reset.barredRest ∧ State.reset.protected ∧
    State.reset.closeConfirmed ∧ State.reset.claimBounded ∧ State.reset.targetsRight ∧ State.reset.detectedRight ∧
    State.reset.sourceRight ∧ State.reset.heatingRight ∧ State.reset.engagedServed ∧ State.reset.watchesRight ∧
    State.reset.heatedRight ∧ State.reset.pending = [] ∧ State.reset.held = false ∧
    exec (.powerOn 0 .zero ⟨true, true, true, false, false, false, false, false⟩) { State.reset with held := true } =
      .next State.reset

/-! ## What every step keeps, block by block -/

/-- Every step keeps each angle in 0..4095 and at 0 while its rest switch is closed (R4), each valve output as the state
asks (R8, with the target in its range, R7), and the flags, the tag and the timers of a drive to the states that use them.
It keeps the line sense unit's counters and the arc monitor's records, windows and ring within their bounds, and the
running mean the mean of its window. -/
def Obligations.StepKeepsDriveSenseAndArcRecords : Prop :=
  ∀ s u : State, step s = .next u →
    (s.anglesOk → u.anglesOk) ∧ (s.valvesOk → u.valvesOk) ∧ (s.coursesOk → u.coursesOk) ∧
      (s.senseOk → u.senseOk) ∧ (s.arcOk → u.arcOk)

/-- Every step keeps the changeover controller in order: CLOSE only in STEADY, the motor only in a transit outside a pause
and under an open feedback, MOVING exactly while there is a target, the disagreement timer only under disagreement. -/
def Obligations.StepKeepsChangeover : Prop := ∀ s u : State, s.changeoverOk → step s = .next u → u.changeoverOk

/-- Every step keeps the ice and heating unit in order: the index in its range, HEAVY under the saturation flag, the grant
within the claim, every output OFF under the force-off, PWM only with a duty of 1..99 and a running period. It keeps the
level, the leading cause and the detected set of one piece (R143). -/
def Obligations.StepKeepsHeatingAndAttention : Prop :=
  ∀ s u : State, step s = .next u → (s.heatOk → u.heatOk) ∧ (s.attentionOk → u.attentionOk)

/-- Every step keeps the roof line port and start-up control in order: nothing pending in LISTEN (R169), a frame in
SENDING always with its snapshot, the line active under an attempt, a reception and the hold, the configuration in its
ranges (R175) and at the defaults until it is frozen; and, under those strap values, the peer table a table: addresses
1..16, no two entries the same, never the own address, so that it has at most 15 entries (R43). -/
def Obligations.StepKeepsPortStartUpAndPeerTable : Prop :=
  (∀ s u : State, s.portOk → s.startOk → step s = .next u → u.portOk ∧ u.startOk ∧ (s.tableOk → u.tableOk)) ∧
    ∀ s : State, 1 ≤ s.start.address ∧ s.start.address ≤ 16 → s.tableOk → s.view.table.length ≤ 15

/-! ## What holds of the whole station when a command is done -/

/-- At most one pantograph of a station is in BIDDING, PREHEAT, RISING or CONTACT (R62): every step that begins with
nothing in flight keeps it. -/
def Obligations.AtMostOnePantographEngaged : Prop :=
  ∀ s u : State, s.settled → s.oneEngaged → step s = .next u → u.oneEngaged

/-- A pantograph whose drop lockout is set is in DOWN, FALLING or DROPPED (R22), and so is an isolated one (R72): every
command keeps it, once everything it brings about is done. -/
def Obligations.LockedOutOrIsolatedStaysDown : Prop :=
  ∀ s u : State, s.settled → s.coursesOk → s.barredRest → step s = .next u → u.settled → u.barredRest

/-- While the effective protective level is 0 or 1, no pantograph of the station is in BIDDING, PREHEAT, RISING or
CONTACT, and the breaker request is OPEN (R146): every command keeps it, once everything it brings about is done. -/
def Obligations.ProtectiveLevelHoldsEverythingDown : Prop :=
  ∀ s u : State, s.settled → s.coursesOk → s.protected → step s = .next u → u.settled → u.protected

/-- The breaker request is CLOSE only while the phase is STEADY and the confirmed class equals the demanded system (R101):
every command keeps it, once everything it brings about is done. -/
def Obligations.CloseOnlyOnConfirmedDemand : Prop :=
  ∀ s u : State, s.settled → s.closeConfirmed → step s = .next u → u.settled → u.closeConfirmed

/-- The station's grant never exceeds its claim, its claim never exceeds the sum of its non-failed fitted heater ratings,
and both are 0 while the breaker feedback shows open, the level is 3 or lower, or the selector is MOVING or LOST (R125,
R128): every command keeps it, once everything it brings about is done. -/
def Obligations.ClaimAndGrantBounded : Prop :=
  ∀ s u : State, s.settled → s.claimBounded → step s = .next u → u.settled → u.claimBounded

/-- The pressure target of every drive is base + boost - floor(v² × k_aero / 100000), clamped to 250..550, in every state
(R7): every command keeps it, once everything it brings about is done. -/
def Obligations.PressureTargetsFollowTheFormula : Prop :=
  (∀ s u : State, s.settled → s.targetsRight → step s = .next u → u.settled → u.targetsRight) ∧
    ∀ (s : State) (d : Drive),
      (targetFor s d : Int) =
        max 250 (min 550
          ((s.start.config.basePress : Int)
            + (if d.state = .contact ∧
                  (s.view.heldValues.deIce = .auto ∧ s.heat.level = .heavy ∨
                    s.view.heldValues.deIce = .forced ∧ s.heat.level ≠ .none) then 60 else 0)
            - ((s.view.heldValues.speed ^ 2 * s.start.config.aero / 100000 : Nat) : Int)))

/-- The detected causes are the latched ones that are enabled and not phase-masked (R141, R142, R143): every command keeps
it, once everything it brings about is done. -/
def Obligations.DetectedCausesFollowMasks : Prop :=
  ∀ s u : State, s.settled → s.detectedRight → step s = .next u → u.settled → u.detectedRight

/-- The source mode follows the active-fresh cab slots, and the values obeyed are those of the sole active cab's last
record (R52, R53, R54): every command keeps it, once everything it brings about is done. -/
def Obligations.SourceModeFollowsTheSlots : Prop :=
  ∀ s u : State, s.settled → s.sourceRight → step s = .next u → u.settled → u.sourceRight

/-! ## What only its own commands change -/

/-- The inputs, the angles, the line sense unit and the strap values change only at the commands that bring them; a
RESTART sets the line sense unit to its power-on values (R42). The arc records, windows, second count and ring change only
at a current sample and an assessment expiry, or are cleared by an order that a frame brings (CLEAR_ARCS, RESTART: R114,
R116). -/
def Obligations.InputsAndArcRecordsChangeOnlyByTheirCommands : Prop :=
  ∀ (c : Instr) (s u : State), exec c s = .next u → c.isPower = false →
    (c.isLineSense = false → u.sense = s.sense ∨ c.bringsFrame = true ∧ u.sense = .initial) ∧
    (∀ p, (u.drive p).headKind = (s.drive p).headKind ∧
      ((u.drive p).angle = (s.drive p).angle ∨ (∃ t up, c = .legalTransition t p up) ∨ ∃ t, c = .restSwitchClosure t p) ∧
      ((u.drive p).restClosed = (s.drive p).restClosed ∨ (∃ t, c = .restSwitchClosure t p) ∨
        ∃ t, c = .restSwitchOpening t p)) ∧
    (u.chg.closed = s.chg.closed ∨ ∃ t x, c = .breakerFeedbackChange t x) ∧
    (u.chg.endAC = s.chg.endAC ∧ u.chg.endDC = s.chg.endDC ∨ ∃ t x y, c = .endSwitchChange t x y) ∧
    (u.heat.temperature = s.heat.temperature ∧ u.heat.humidity = s.heat.humidity ∨ ∃ t r, c = .weatherReading t r) ∧
    (∀ l, (u.heat.load l).feedback = (s.heat.load l).feedback ∨
      ∃ t, c = .heaterFeedbackChange t l (u.heat.load l).feedback) ∧
    u.start.address = s.start.address ∧ u.start.carIndex = s.start.carIndex ∧ u.start.rear1 = s.start.rear1 ∧
    u.start.rear2 = s.start.rear2 ∧ u.start.insCode = s.start.insCode ∧ u.start.headCode = s.start.headCode ∧
    (c.isArc = false →
      u.arc.assess = s.arc.assess ∧
      (s.arc.ch1.Kept u.arc.ch1 ∧ s.arc.ch2.Kept u.arc.ch2 ∧ u.arc.second = s.arc.second ∧ u.arc.ring = s.arc.ring ∨
        c.bringsFrame = true ∧ u.arc.second = 0 ∧ u.arc.ring = List.replicate 10 0 ∧
          ∀ p, (u.arc.channel p).arcs = 0 ∧ (u.arc.channel p).longArcs = 0 ∧ (u.arc.channel p).firstArc = none ∧
            (u.arc.channel p).firstLong = none ∧ (u.arc.channel p).window = (s.arc.channel p).window ∧
            (u.arc.channel p).mean = (s.arc.channel p).mean))

/-- A drop lockout is set only by an auto-drop and cleared only by an UNLOCK that found the enable latch set, the
pantograph in DOWN and its cell idle (R22, R26); a cell changes only where a write of it completes (R23). Once the
configuration is frozen, nothing but power-on changes it, its state or the own positions (R172, R176, R177). -/
def Obligations.LockoutCellAndConfigurationChangeOnlyAsGiven : Prop :=
  (∀ (c : Instr) (s u : State) (p : Panto), exec c s = .next u → c.isPower = false →
    ((u.drive p).cell = (s.drive p).cell ∨
      ∃ t r, c = .cellWriteComplete t p r ∧ (u.drive p).cell = r ∧ (s.drive p).write.isSome = true) ∧
    ((s.drive p).lockout = true → (u.drive p).lockout = true ∨
      c.bringsFrame = true ∧ s.unlock.isSome = true ∧ (s.drive p).state = .down ∧ (s.drive p).write = none ∧
        (u.drive p).write = some .clear ∧ u.unlock = none) ∧
    ((s.drive p).lockout = false → (u.drive p).lockout = true →
      c = .autoDrop p ∧ (s.drive p).armed = true ∧ (s.drive p).state.up = true ∧ (u.drive p).write.isSome = true)) ∧
  ∀ (c : Instr) (s u : State), s.startOk → s.start.configState ≠ .unfrozen → exec c s = .next u → c.isPower = false →
    u.start.configState = s.start.configState ∧ u.start.config = s.start.config ∧ u.start.pos1 = s.start.pos1 ∧
      u.start.pos2 = s.start.pos2

/-- The peer table changes only by a received record, by ageing and by a RESTART; a record replaces the entry of its
sender with a fresh one (R43), and every other entry stays. Cab slots and the duplicate timer change only by received
frames and their own expiries. -/
def Obligations.PeerTableChangesOnlyAsGiven : Prop :=
  ∀ (c : Instr) (s u : State), exec c s = .next u → c.isPower = false →
    (u.view.table = s.view.table ∨ c.agesTable = true ∨
      c.bringsFrame = true ∧ (u.view.table = [] ∨
        ∃ a r, 1 ≤ a ∧ a ≤ 16 ∧ a ≠ s.start.address ∧ u.view.table = tablePut (.fresh a r u.now) s.view.table)) ∧
    (u.view.dupTimer = s.view.dupTimer ∨ c = .duplicateExpiry ∨ c.bringsFrame = true) ∧
    (∀ e, u.view.slot e = s.view.slot e ∨ c = .slotExpiry e ∨ c.bringsFrame = true) ∧
    ∀ (e : PeerEntry) (l : List PeerEntry) (a : Nat),
      tableFind a (tablePut e l) = if a = e.address then some e else tableFind a l

/-- The breaker request goes from OPEN to CLOSE only at a gate end, under a demand of RAISE and with the confirmed class
equal to the demanded system (R89, R101, R102); a sample that ends the gate counts as one (entry 12). -/
def Obligations.BreakerClosesOnlyAtAGate : Prop :=
  ∀ (c : Instr) (s u : State), s.settled → s.chg.close = false → exec c s = .next u → u.chg.close = true →
    c.isLineSense = true ∧ u.chg.phase = .steady ∧ u.view.demand = .raise ∧
      u.sense.confirmed.isSystem u.view.heldValues.system = true

/-! ## Functions of the blocks -/

/-- At each gate end the unit classifies the gate from its crossing count and its level by the table of R33. -/
def Obligations.GatesAreClassifiedByTheTable : Prop :=
  (∀ k l : Nat,
    (l < 5 → classify k l = .dead) ∧
    (k ≤ 1 → (10 ≤ l ∧ l ≤ 21 → classify k l = .sys .dc1k5) ∧ (22 ≤ l ∧ l ≤ 41 → classify k l = .sys .dc3) ∧
      (42 ≤ l → classify k l = .over) ∧ (5 ≤ l ∧ l ≤ 9 → classify k l = .unknown)) ∧
    (6 ≤ k ∧ k ≤ 10 → (90 ≤ l ∧ l ≤ 161 → classify k l = .sys .ac15) ∧ (162 ≤ l → classify k l = .over) ∧
      (5 ≤ l ∧ l ≤ 89 → classify k l = .unknown)) ∧
    (20 ≤ k ∧ k ≤ 28 → (153 ≤ l ∧ l ≤ 260 → classify k l = .sys .ac25) ∧ (261 ≤ l → classify k l = .over) ∧
      (5 ≤ l ∧ l ≤ 152 → classify k l = .unknown)) ∧
    (5 ≤ l → 2 ≤ k ∧ k ≤ 5 ∨ 11 ≤ k ∧ k ≤ 19 ∨ 29 ≤ k → classify k l = .unknown)) ∧
  ∀ s : State, s.held = false → s.sense.position = 480 →
    ∃ u, exec .gateEnd s = .next u ∧ u.sense.newer = some (classify s.sense.crossings (s.sense.sum / 480))

/-- The water-fill of R127: claims that fit the budget are granted in full; else each grant is its claim or one common
share, whichever is less, the grants do not exceed the budget, and less is left unallocated than there are claims above
the share. The grants stand for the claims themselves, each once, in ascending order. -/
def Obligations.WaterFillDividesTheBudget : Prop :=
  ∀ (budget : Nat) (claims : List Nat),
    ((waterFill budget claims).map Prod.fst).Perm claims ∧
    ((waterFill budget claims).map Prod.fst).Pairwise (· ≤ ·) ∧
    (∀ e ∈ waterFill budget claims, e.2 ≤ e.1) ∧
    ((waterFill budget claims).map Prod.snd).sum ≤ budget ∧
    (claims.sum ≤ budget → ∀ e ∈ waterFill budget claims, e.2 = e.1) ∧
    (budget < claims.sum →
      ∃ share, (∀ e ∈ waterFill budget claims, e.2 = min e.1 share) ∧
        budget < ((waterFill budget claims).map Prod.snd).sum + (claims.filter fun c => share < c).length)

/-- The apportioning of a grant over the loads (R130): a load that is not claimed is OFF; a claimed load is full on where
its rating and those of the claimed loads before it in the priority fit the grant; the first that does not fit runs at
floor(remaining × 100 / rating), or is OFF where that is 0; every later one is OFF. So the outputs fit the grant, at most
one load runs at a duty, of 1..99 per cent, and no two loads have the same place. The priority has the head in PREHEAT
before the insulator, then the head in RISING or CONTACT, then the others, P1 before P2. -/
def Obligations.ApportioningFollowsThePriority : Prop :=
  ∀ (s : State) (grant : Nat),
    ((allLoads.map fun l => rating s l * match shareOf s grant l with
      | .off => 0
      | .full => 100
      | .part d => d).sum ≤ 100 * grant) ∧
    (∀ l, claimed s l = false → shareOf s grant l = .off) ∧
    (∀ l d, shareOf s grant l = .part d → 1 ≤ d ∧ d ≤ 99) ∧
    (∀ l m d e, shareOf s grant l = .part d → shareOf s grant m = .part e → l = m) ∧
    (∀ p, (s.drive p).state = .preheat → loadPlace s (.head p) < loadPlace s .insulator) ∧
    (∀ p, (s.drive p).state ≠ .preheat → loadPlace s .insulator < loadPlace s (.head p)) ∧
    (∀ p, (s.drive p).state.up = true → (s.drive p.other).state ≠ .preheat → (s.drive p.other).state.up = false →
      loadPlace s (.head p) < loadPlace s (.head p.other)) ∧
    ((∀ p, (s.drive p).state ≠ .preheat ∧ (s.drive p).state.up = false) →
      loadPlace s (.head .p1) < loadPlace s (.head .p2)) ∧
    (∀ l m, loadPlace s l = loadPlace s m → l = m ∨ (s.drive .p1).engaged = true ∧ (s.drive .p2).engaged = true) ∧
    (∀ l before, claimed s l = true → ¬((s.drive .p1).engaged = true ∧ (s.drive .p2).engaged = true) →
      before = ((allLoads.filter fun m => claimed s m && decide (loadPlace s m < loadPlace s l)).map (rating s)).sum →
      (before + rating s l ≤ grant → shareOf s grant l = .full) ∧
      (before ≤ grant → grant < before + rating s l →
        shareOf s grant l =
          if (grant - before) * 100 / rating s l = 0 then .off else .part ((grant - before) * 100 / rating s l)) ∧
      (grant < before → shareOf s grant l = .off)) ∧
    (∀ l m, claimed s l = true → claimed s m = true → loadPlace s l < loadPlace s m → shareOf s grant m ≠ .off →
      shareOf s grant l = .full)

/-- The admission test (R57, R67 to R70): a bidder with a tag is admitted exactly where its ahead set is smaller than the
raise limit, each member stands at the minimum spacing or more, and the dead-roof barrier holds; the order by rank is
total: the larger position under A_LEADING, the smaller under B_LEADING, then the smaller address, then P1 (R57). What the
tests see are the fitted own pantographs and those of the peer table: a fresh entry's, of a stale entry the presumed-up
ones alone, and none of head kind NONE (R45, R49). -/
def Obligations.AdmissionTestReadsTheAheadSet : Prop :=
  (∀ (s : State) (p : Panto) (x : System), (s.drive p).tag = some x →
    ∀ ahead : List Presented,
      ahead = (allPresented s).filter (fun m =>
        decide (¬(m.address = s.start.address ∧ m.panto = p) ∧ m.tag = some x ∧
          ((m.state = .preheat ∨ m.state = .rising ∨ m.state = .contact) ∨
            m.state = .bidding ∧ betterRank s.view.heldValues.direction m (ownPanto s p) = true))) →
      (admissible s p = true ↔
        ahead.length < s.start.config.raiseLimit x ∧
        (∀ m ∈ ahead, min 400 (s.start.config.spacingBase + s.view.heldValues.speed * s.start.config.spacingGain / 100) ≤
          max m.position (s.start.position p) - min m.position (s.start.position p)) ∧
        (s.sense.confirmed ≠ .dead ∨ ∀ e ∈ s.view.table, e.record.phase = .ready ∨ e.record.phase = .confirming ∨
          e.record.phase = .steady ∨ e.record.phase = .mismatch))) ∧
  (∀ (d : Direction) (x y : Presented),
    (betterRank d x y = true → betterRank d y x = false) ∧
    (¬(x.address = y.address ∧ x.panto = y.panto) → betterRank d x y = true ∨ betterRank d y x = true) ∧
    ∀ z, betterRank d x y = true → betterRank d y z = true → betterRank d x z = true) ∧
  (∀ x y : Presented,
    (betterRank .aLeading x y = true ↔
      y.position < x.position ∨ x.position = y.position ∧
        (x.address < y.address ∨ x.address = y.address ∧ x.panto = .p1 ∧ y.panto = .p2)) ∧
    (betterRank .bLeading x y = true ↔
      1023 - y.position < 1023 - x.position ∨ 1023 - x.position = 1023 - y.position ∧
        (x.address < y.address ∨ x.address = y.address ∧ x.panto = .p1 ∧ y.panto = .p2))) ∧
  ∀ s : State,
    (∀ m : Presented, m ∈ allPresented s ↔
      (∃ p, (s.drive p).fitted = true ∧
        m = { address := s.start.address, panto := p, state := (s.drive p).state, tag := (s.drive p).tag,
              position := s.start.position p }) ∨
      ∃ e ∈ s.view.table, ∃ p, (e.record.panto p).headKind ≠ .none ∧
        (e.stale = false ∨ p = .p1 ∧ e.presumed1 = true ∨ p = .p2 ∧ e.presumed2 = true) ∧
        m = { address := e.address, panto := p, state := (e.record.panto p).state, tag := (e.record.panto p).tag,
              position := min 1023 (e.record.panto p).position }) ∧
    (s.tableOk → (allPresented s).Nodup)

/-- A frame's record comes back from its bytes: what a station or cab sends is what a station that receives it whole reads
(R154 to R159). -/
def Obligations.FramesComeBackFromTheirBytes : Prop :=
  ∀ v : ValidFrame, v.fits = true → parseFrame v.bytes = some v

/-- The bytes of a frame (R156, R159): the CRC takes every bit before it, the most significant of a byte first, shifts,
and combines with 0x3D65 where the bit shifted out differs; the layouts are those of the byte tables of 9.4, high byte and
first named field first, under its code sets. -/
def Obligations.FrameBytesFollowTheLayout : Prop :=
  (∀ l : List Byte,
    crc l = (l.flatMap fun b => (List.range 8).map fun i => b.getLsbD (7 - i)).foldl
      (fun (r : BitVec 16) d => if r.getLsbD 15 = d then r <<< 1 else (r <<< 1) ^^^ 0x3D65#16) 0xFFFF#16) ∧
  (∀ v : ValidFrame, v.fits = true →
    ∃ body : List Byte,
      v.bytes.map BitVec.toNat =
        (body.map BitVec.toNat) ++ [(crc body).toNat / 256, (crc body).toNat % 256] ∧
      body.map BitVec.toNat =
        match v with
        | .status a r =>
          [1, a, 28, 16 * r.startMode.code + r.configState.code, r.phase.code,
            16 * r.confirmed.code + r.selector.code, 16 * flagCode r.close + flagCode r.closed]
          ++ ([r.panto1, r.panto2].flatMap fun x =>
            [16 * x.headKind.code + x.state.code, tagCode x.tag, x.position / 256, x.position % 256,
              128 * flagCode x.isolate + 64 * flagCode x.lockout + 32 * flagCode x.capture + x.outcome.code, x.arcs])
          ++ [r.claim / 256, r.claim % 256, r.grant / 256, r.grant % 256, 16 * r.iceLevel.code + flagCode r.saturated,
            r.level, r.leading, r.detected.toNat / 65536, r.detected.toNat / 256 % 256, r.detected.toNat % 256,
            lastKindCode r.lastOrder, lastOutcomeCode r.lastOutcome]
        | .consist e r =>
          [2, if e = .a then 1 else 2, if r.block.isSome then 28 else 8, 16 * flagCode r.active + r.demand.code,
            tagCode r.system, 16 * r.direction.code + r.deIce.code, r.speed / 256, r.speed % 256, r.marker / 256,
            r.marker % 256, flagCode r.block.isSome]
          ++ (r.block.toList.flatMap fun c =>
            [c.budget / 256, c.budget % 256, c.carLength / 256, c.carLength % 256, c.spacingBase / 256,
              c.spacingBase % 256, c.spacingGain, 16 * c.limitAC25 + c.limitAC15, 16 * c.limitDC3 + c.limitDC1K5,
              c.basePress / 256, c.basePress % 256, c.aero, c.windowLow / 256, c.windowLow % 256, c.windowHigh / 256,
              c.windowHigh % 256, c.preheat, c.enables.toNat / 65536, c.enables.toNat / 256 % 256,
              c.enables.toNat % 256])
        | .order o => [3, if o.sender = .a then 1 else 2, 3, o.target, o.kind.code, o.arg]) ∧
  [StartMode.listen, .adopt, .run].map StartMode.code = [0, 1, 2] ∧
  [ConfigState.unfrozen, .frozenConsist, .frozenDefault].map ConfigState.code = [0, 1, 2] ∧
  [Phase.unset, .steady, .preparing, .clear, .selecting, .ready, .confirming, .mismatch].map Phase.code =
    [0, 1, 2, 3, 4, 5, 6, 7] ∧
  [LineClass.dead, .sys .ac25, .sys .ac15, .sys .dc3, .sys .dc1k5, .unknown, .over].map LineClass.code =
    [0, 1, 2, 3, 4, 5, 6] ∧
  [Selector.onSide .ac, .onSide .dc, .moving, .lost].map Selector.code = [0, 1, 2, 3] ∧
  [false, true].map flagCode = [0, 1] ∧
  [HeadKind.none, .ac, .dc].map HeadKind.code = [0, 1, 2] ∧
  [PState.down, .bidding, .preheat, .rising, .contact, .fallingNormal, .fallingFast, .dropped].map PState.code =
    [0, 1, 2, 3, 4, 5, 6, 7] ∧
  [none, some System.ac25, some .ac15, some .dc3, some .dc1k5].map tagCode = [0, 1, 2, 3, 4] ∧
  [POutcome.none, .raised, .notAdmitted, .yielded, .withheld, .noWire, .stall, .dropped, .lowered, .protect].map
    POutcome.code = [0, 1, 2, 3, 4, 5, 6, 7, 8, 9] ∧
  [IceLevel.none, .light, .heavy].map IceLevel.code = [0, 1, 2] ∧
  [Demand.lower, .raise, .prepare].map Demand.code = [0, 1, 2] ∧
  [Direction.aLeading, .bLeading].map Direction.code = [0, 1] ∧
  [DeIce.off, .auto, .forced].map DeIce.code = [0, 1, 2] ∧
  [none, some OrderKind.ackCause, some .isolate, some .restore, some .unlockEnable, some .unlock, some .clearArcs,
    some .restart].map lastKindCode = [0, 1, 2, 3, 4, 5, 6, 7] ∧
  (∀ k : OrderKind, k.code = lastKindCode (some k)) ∧
  [none, some OrderOutcome.done, some .refusedState, some .refusedBusy, some .refusedNotEnabled, some .refusedCab,
    some .refusedArg].map lastOutcomeCode = [0, 1, 2, 3, 4, 5, 6] ∧
  ∀ (x : CauseSet) (c : Cause), CauseSet.has x c = x.getLsbD (c.number - 1)

/-! ## Commands of the pantograph drive -/

/-- A legal transition moves the angle by one count, clamped to 0..4095, and not under a closed rest switch (R3, R4). A
transition that the clamp takes, upwards at 4095 in RISING as elsewhere, is no change of the angle and tests nothing, the
upper stop of R11 included (entry 42, the model's choice). In DOWN an angle of 41 or more starts a lowering with outcome
LOWERED (R6). It is a normal one where level and causes are of one piece before it. In RISING an angle that stands at 3800
or more after a step, up or down, lowers the pantograph with NO_WIRE and latches the cause (R11). Below that, RISING and
CONTACT go on as the next two statements give. -/
def Obligations.LegalTransitionMovesTheAngle : Prop :=
  ∀ (t : Time) (p : Panto) (up : Bool) (a : Nat) (s : State), s.held = false → s.settled →
    a = (if up then min 4095 ((s.drive p).angle + 1) else (s.drive p).angle - 1) →
    ((s.drive p).fitted = false ∨ (s.drive p).restClosed = true ∨ a = (s.drive p).angle →
      exec (.legalTransition t p up) s = .next (s.advance t)) ∧
    ((s.drive p).fitted = true → (s.drive p).restClosed = false → a ≠ (s.drive p).angle →
      ∃ u, exec (.legalTransition t p up) s = .next u ∧
        (∃ captured, Kept ((s.advance t).setDrive p { s.drive p with angle := a, captured := captured }) u ∧
          ((s.drive p).state ≠ .rising → captured = (s.drive p).captured)) ∧
        ((s.drive p).state = .down → a ≤ 40 →
          (u.drive p).state = .down ∧ (u.drive p).outcome = (s.drive p).outcome) ∧
        ((s.drive p).state = .down → 40 < a →
          ((u.drive p).state = .fallingNormal ∨ (u.drive p).state = .fallingFast) ∧ (u.drive p).outcome = .lowered ∧
            (s.attentionOk → s.detectedRight → (u.drive p).state = .fallingNormal)) ∧
        ((s.drive p).state = .rising → 3800 ≤ a → s.lowered p .noWire u ∧ s.loweredNormally p u ∧
          (u.settled → CauseSet.has u.att.latched .noWire = true)) ∧
        ((s.drive p).state ≠ .down → (s.drive p).state ≠ .rising → (u.drive p).state = (s.drive p).state) ∧
        ((s.drive p).state = .contact →
          (u.drive p).wireLoss =
            if (s.drive p).captured + 48 < a then some ((s.drive p).wireLoss.getD (u.now + 100 * Config.ms)) else none))

/-- Contact (R10): a rising pantograph whose angle lies in the wire window and has kept within 8 counts for 200 ms goes to
CONTACT, at a change of the angle or at the end of the 200 ms; the stillness history holds the newest angles within that
band, and the moment of its oldest is where the span began. It stays in CONTACT, with outcome RAISED, unless the
evaluation of the peer drop ahead that follows lowers it with PROTECT (R81). Outside RISING no span runs that could end
(entry 2). -/
def Obligations.ContactIsTakenInsideTheWindow : Prop :=
  (∀ (d : Drive) (now : Time), ∃ l, (d.pushStill now).still = (now, d.angle) :: l ∧ l <+: d.still ∧
    (∀ x ∈ (now, d.angle) :: l, ∀ y ∈ (now, d.angle) :: l, x.2 < y.2 + 8) ∧
    (∀ x, l ++ [x] <+: d.still → ∃ y ∈ (now, d.angle) :: l, y.2 + 8 ≤ x.2 ∨ x.2 + 8 ≤ y.2) ∧
    ((d.pushStill now).isStill now = true ↔
      ∃ x, ((now, d.angle) :: l).getLast? = some x ∧ x.1 + 200 * Config.ms ≤ now)) ∧
  (∀ (t : Time) (p : Panto) (up : Bool) (a : Nat) (s : State) (d : Drive), s.held = false → s.settled →
    (s.drive p).fitted = true → (s.drive p).restClosed = false → (s.drive p).state = .rising →
    a = (if up then min 4095 ((s.drive p).angle + 1) else (s.drive p).angle - 1) → a ≠ (s.drive p).angle → a < 3800 →
    d = Drive.pushStill { s.drive p with angle := a } (max s.now t) →
    ((s.start.config.windowLow ≤ a ∧ a ≤ s.start.config.windowHigh) ∧ d.isStill (max s.now t) = true →
      ∃ u, exec (.legalTransition t p up) s = .next u ∧ s.contactLeaves p u ∧
        Kept ((s.advance t).setDrive p { s.drive p with angle := a, captured := a }) u) ∧
    (¬((s.start.config.windowLow ≤ a ∧ a ≤ s.start.config.windowHigh) ∧ d.isStill (max s.now t) = true) →
      ∃ u, exec (.legalTransition t p up) s = .next u ∧ (u.drive p).state = .rising ∧ (u.drive p).still = d.still ∧
        (u.drive p).raiseTimer = (s.drive p).raiseTimer ∧
        Kept ((s.advance t).setDrive p { s.drive p with angle := a }) u)) ∧
  (∀ (p : Panto) (s : State) (m : Time), s.held = false → s.settled →
    (s.drive p).fitted = true → (s.drive p).state = .rising → (s.drive p).stillFrom = some m →
    (s.start.config.windowLow ≤ (s.drive p).angle ∧ (s.drive p).angle ≤ s.start.config.windowHigh →
      (s.drive p).restClosed = false →
      ∃ u, exec (.stillnessSpanEnd p) s = .next u ∧ s.contactLeaves p u ∧
        Kept ((s.advance (m + 200 * Config.ms)).setDrive p { s.drive p with captured := (s.drive p).angle }) u) ∧
    (¬(s.start.config.windowLow ≤ (s.drive p).angle ∧ (s.drive p).angle ≤ s.start.config.windowHigh) →
      exec (.stillnessSpanEnd p) s = .next (s.advance (m + 200 * Config.ms)))) ∧
  ∀ (p : Panto) (s : State), s.held = false → s.settled → (s.drive p).state ≠ .rising →
    exec (.stillnessSpanEnd p) s = .next s

/-- A wire loss that completes (R13), a raise timer that expires (R12) and a rise past the upper stop (R11) lower the
pantograph normally, with outcome NO_WIRE, STALL and NO_WIRE, and latch NO_WIRE, RAISE_STALL and NO_WIRE. A timer that
does not run has no expiry (entry 2). -/
def Obligations.WireLossStallAndUpperStopLower : Prop :=
  (∀ (p : Panto) (s : State) (d : Time), s.held = false → s.settled → (s.drive p).state = .contact →
    (s.drive p).wireLoss = some d →
    ∃ u, exec (.wireLossInterval p) s = .next u ∧ Kept (s.advance d) u ∧ s.lowered p .noWire u ∧ s.loweredNormally p u ∧
      (u.settled → CauseSet.has u.att.latched .noWire = true)) ∧
  (∀ (p : Panto) (s : State) (d : Time), s.held = false → s.settled → (s.drive p).state = .rising →
    (s.drive p).raiseTimer = some d →
    ∃ u, exec (.raiseTimeout p) s = .next u ∧ Kept (s.advance d) u ∧ s.lowered p .stall u ∧ s.loweredNormally p u ∧
      (u.settled → CauseSet.has u.att.latched .raiseStall = true)) ∧
  (∀ (t : Time) (p : Panto) (s : State), s.held = false → s.settled → (s.drive p).fitted = true →
    (s.drive p).restClosed = false → (s.drive p).state = .rising → 3799 ≤ (s.drive p).angle → (s.drive p).angle < 4095 →
    ∃ u, exec (.legalTransition t p true) s = .next u ∧ s.lowered p .noWire u ∧ s.loweredNormally p u ∧
      Kept ((s.advance t).setDrive p { s.drive p with angle := (s.drive p).angle + 1 }) u ∧
      (u.settled → CauseSet.has u.att.latched .noWire = true)) ∧
  ∀ (p : Panto) (s : State), s.held = false → s.settled →
    ((s.drive p).state ≠ .contact ∨ (s.drive p).wireLoss = none → exec (.wireLossInterval p) s = .next s) ∧
    ((s.drive p).state ≠ .rising ∨ (s.drive p).raiseTimer = none → exec (.raiseTimeout p) s = .next s)

/-- An illegal transition (R5) enters the history of the last three, restarts the quiet timer of 10 s and leaves the
angle; one that finds three others less than 1 s before it latches ENCODER_FAULT (all three less than 1 s back: entry 22).
At the expiry of the timer the drive reports the encoder quiet, and an acknowledged ENCODER_FAULT clears once both are
(R149). A timer that does not run has no expiry (entry 2). -/
def Obligations.IllegalTransitionsAreCounted : Prop :=
  (∀ (t : Time) (p : Panto) (s : State), s.held = false → s.settled →
    ((s.drive p).fitted = false → exec (.illegalTransition t p) s = .next (s.advance t)) ∧
    ((s.drive p).fitted = true → ∃ u, exec (.illegalTransition t p) s = .next u ∧
      Kept ((s.advance t).setDrive p { s.drive p with
        encHistory := (max s.now t :: (s.drive p).encHistory).take 3
        quietTimer := some (max s.now t + 10 * Config.second) }) u ∧
      (3 ≤ (s.drive p).encHistory.length ∧ (∀ m ∈ (s.drive p).encHistory, max s.now t < m + 1 * Config.second) →
        CauseSet.has u.att.latched .encoderFault = true) ∧
      (¬(3 ≤ (s.drive p).encHistory.length ∧ (∀ m ∈ (s.drive p).encHistory, max s.now t < m + 1 * Config.second)) →
        u.att = s.att ∧ (u.drive p).state = (s.drive p).state))) ∧
  ∀ (p : Panto) (s : State), s.held = false → s.settled →
    ((s.drive p).quietTimer = none → exec (.encoderQuietExpiry p) s = .next s) ∧
    (∀ d, (s.drive p).quietTimer = some d → ∃ u, exec (.encoderQuietExpiry p) s = .next u ∧
      Kept ((s.advance d).setDrive p { s.drive p with quietTimer := none }) u ∧
      (CauseSet.has s.att.latched .encoderFault = true → CauseSet.has s.att.pending .encoderFault = true →
        ((s.drive p.other).fitted = false ∨ (s.drive p.other).quietTimer = none) →
        CauseSet.has u.att.latched .encoderFault = false) ∧
      (CauseSet.has s.att.pending .encoderFault = false → u.att = s.att))

/-- A closure of the rest switch loads the angle with 0 (R4); in CONTACT it is a wire loss (R13), FALLING and DROPPED end
in DOWN (R16, R20), and in the other states the state stays. An opening changes the switch alone. -/
def Obligations.RestSwitchEndsALowering : Prop :=
  (∀ (t : Time) (p : Panto) (s : State), s.held = false → s.settled →
    ((s.drive p).fitted = false → exec (.restSwitchClosure t p) s = .next (s.advance t)) ∧
    ((s.drive p).fitted = true → ∃ u, exec (.restSwitchClosure t p) s = .next u ∧
      Kept ((s.advance t).setDrive p { s.drive p with angle := 0, restClosed := true }) u ∧
      ((s.drive p).state = .contact → s.lowered p .noWire u ∧
        (u.settled → CauseSet.has u.att.latched .noWire = true)) ∧
      ((s.drive p).state.falling = true ∨ (s.drive p).state = .dropped → s.noBidFor p →
        (u.drive p).state = .down ∧ (u.drive p).tag = none ∧ (u.drive p).setpoint = .held 0 ∧ (u.drive p).dump = false ∧
        (u.drive p).lowerTimer = none ∧ (u.drive p).dropTimer = none ∧ (u.drive p).outcome = (s.drive p).outcome) ∧
      ((s.drive p).state = .down ∨ (s.drive p).state.inBid = true ∨ (s.drive p).state = .rising →
        CauseSet.has s.att.pending .lowerStall = false → (u.drive p).state = (s.drive p).state) ∧
      (CauseSet.has s.att.latched .lowerStall = true → CauseSet.has s.att.pending .lowerStall = true →
        ((s.drive p.other).fitted = false ∨ (s.drive p.other).restClosed = true) → u.settled →
        CauseSet.has u.att.latched .lowerStall = false))) ∧
  ∀ (t : Time) (p : Panto) (s : State), s.held = false → s.settled →
    ((s.drive p).fitted = false → exec (.restSwitchOpening t p) s = .next (s.advance t)) ∧
    ((s.drive p).fitted = true → ∃ u, exec (.restSwitchOpening t p) s = .next u ∧
      Kept ((s.advance t).setDrive p { s.drive p with restClosed := false }) u ∧ u.att = s.att ∧
      (u.drive p).state = (s.drive p).state)

/-- The drop watch (R14): a pressure value is compared with 120 kPa below the lowest target of the last second; it arms
the watch in RISING, and under an armed watch it begins, keeps or abandons the drop interval. A rise of the target leaves
its old value among the values compared, so that no command but of the power-on reset raises the lowest target of the last
second above the target before it. One second after a rise of the target its old value counts no more (the boundary is
inclusive: entry 21). A timer that does not run has no expiry (entry 2). -/
def Obligations.PressureValueFeedsTheDropWatch : Prop :=
  (∀ (d : Drive) (now : Time),
    (∀ e ∈ d.oldTargets, now ≤ e.1 + 1 * Config.second → d.reference now ≤ e.2) ∧ d.reference now ≤ d.target ∧
      (d.reference now = d.target ∨ ∃ e ∈ d.oldTargets, now ≤ e.1 + 1 * Config.second ∧ d.reference now = e.2)) ∧
  (∀ (d : Drive) (now : Time) (v : Nat), (d.retarget now v).target = v ∧
    (d.target < v → (now, d.target) ∈ (d.retarget now v).oldTargets) ∧
    ∀ e, (e ∈ (d.retarget now v).oldTargets ↔
      (e ∈ d.oldTargets ∨ d.target < v ∧ e = (now, d.target)) ∧ e.2 < v ∧ now ≤ e.1 + 1 * Config.second)) ∧
  (∀ (c : Instr) (s u : State) (p : Panto), exec c s = .next u → c.isPower = false →
    (u.drive p).reference u.now ≤ (s.drive p).target) ∧
  (∀ (t : Time) (p : Panto) (v : Option Nat) (s : State), s.held = false → s.settled →
    ((s.drive p).fitted = false → exec (.pressureValue t p v) s = .next (s.advance t)) ∧
    ((s.drive p).fitted = true → ∃ u, exec (.pressureValue t p v) s = .next u ∧ Kept (s.advance t) u ∧ u.att = s.att ∧
      (u.drive p).state = (s.drive p).state ∧
      ((s.drive p).armed = true → (u.drive p).armed = true ∧
        (u.drive p).dropInterval =
          if (s.drive p).reference (max s.now t) - 120 ≤ v.getD 0 then none
          else some ((s.drive p).dropInterval.getD (max s.now t + 100 * Config.ms))) ∧
      ((s.drive p).armed = false → (u.drive p).dropInterval = (s.drive p).dropInterval ∧
        ((u.drive p).armed = true ↔
          (s.drive p).state = .rising ∧ (s.drive p).reference (max s.now t) - 120 ≤ v.getD 0)))) ∧
  ∀ (p : Panto) (s : State), s.held = false → s.settled →
    ((s.drive p).oldTargets = [] → exec (.referenceTargetExpiry p) s = .next s) ∧
    (∀ e, (s.drive p).oldTargets.getLast? = some e → ∃ u, exec (.referenceTargetExpiry p) s = .next u ∧
      Kept (s.advance (e.1 + 1 * Config.second)) u ∧ u.att = s.att ∧ (u.drive p).state = (s.drive p).state ∧
      e ∉ (u.drive p).oldTargets)

/-- An auto-drop (R15): the pantograph goes to DROPPED, vented, locked out, with outcome DROPPED, a write of LOCKED asked
for, the breaker request OPEN and PANTO_DROP latched; one at rest goes on to DOWN at once (R16). Where the cell is busy,
the write in progress goes on and the write of LOCKED waits (entry 19, the model's reading). Where no drop interval runs
it cannot complete (entry 2). -/
def Obligations.AutoDropVentsAndLocks : Prop :=
  ∀ (p : Panto) (s : State), s.held = false → s.settled →
    ((s.drive p).armed = false ∨ (s.drive p).state.up = false ∨ (s.drive p).dropInterval = none →
      exec (.autoDrop p) s = .next s) ∧
    (∀ d, (s.drive p).armed = true → (s.drive p).state.up = true → (s.drive p).dropInterval = some d →
      ∃ u, exec (.autoDrop p) s = .next u ∧
        Kept ((s.advance d).setDrive p { s.drive p with
          lockout := true
          write := some ((s.drive p).write.getD .locked)
          queued := if (s.drive p).write.isSome then some .locked else (s.drive p).queued }) u ∧
        (u.drive p).outcome = .dropped ∧ (u.drive p).capture = false ∧ (u.drive p).armed = false ∧
        (u.drive p).setpoint = .held 0 ∧ u.chg.close = false ∧
        ((s.drive p).restClosed = false → (u.drive p).state = .dropped ∧ (u.drive p).tag = (s.drive p).tag ∧
          (u.drive p).dump = true ∧ (u.drive p).dropTimer = some (u.now + 4 * Config.second)) ∧
        ((s.drive p).restClosed = true → (u.drive p).state = .down ∧ (u.drive p).tag = none ∧ (u.drive p).dump = false) ∧
        (u.settled → CauseSet.has u.att.latched .pantoDrop = true))

/-- The timers of a lowering: the breaker wait ends in the ramp, with BREAKER_FAIL where the request is OPEN (R18); the
lower timer vents the head and latches LOWER_STALL (R20); the drop timer latches LOWER_STALL (R16). A fast lowering that
meets them in the same event takes over. FALLING and DROPPED stand only off the rest (the drive's invariant above). A
timer that does not run has no expiry (entry 2). -/
def Obligations.LoweringTimersExpire : Prop :=
  (∀ (p : Panto) (s : State) (d : Time) (v : Nat), s.held = false → s.settled → (s.drive p).restClosed = false →
    (s.drive p).state = .fallingNormal → (s.drive p).breakerWait = some d → (s.drive p).setpoint = .held v →
    ∃ u, exec (.breakerWaitExpiry p) s = .next u ∧ Kept (s.advance d) u ∧ (u.drive p).breakerWait = none ∧
      (u.drive p).outcome = (s.drive p).outcome ∧ (u.drive p).tag = (s.drive p).tag ∧
      ((u.drive p).state = .fallingNormal ∧ (u.drive p).setpoint = .ramp v u.now ∨
        (u.drive p).state = .fallingFast ∧ (u.drive p).setpoint = .held 0) ∧
      (s.chg.close = false → u.settled → CauseSet.has u.att.latched .breakerFail = true) ∧
      (s.chg.close = true → u.att = s.att ∧ (u.drive p).state = .fallingNormal)) ∧
  (∀ (p : Panto) (s : State) (d : Time), s.held = false → s.settled → (s.drive p).restClosed = false →
    (s.drive p).state.falling = true → (s.drive p).lowerTimer = some d →
    ∃ u, exec (.lowerTimerExpiry p) s = .next u ∧ Kept (s.advance d) u ∧ (u.drive p).state.falling = true ∧
      (u.drive p).dump = true ∧ (u.drive p).setpoint = .held 0 ∧ (u.drive p).outcome = (s.drive p).outcome ∧
      CauseSet.has u.att.latched .lowerStall = true) ∧
  (∀ (p : Panto) (s : State) (d : Time), s.held = false → s.settled → (s.drive p).state = .dropped →
    (s.drive p).dropTimer = some d →
    ∃ u, exec (.dropTimerExpiry p) s = .next u ∧ Kept (s.advance d) u ∧ (u.drive p).state = .dropped ∧
      (u.drive p).dropTimer = none ∧ (u.drive p).outcome = (s.drive p).outcome ∧ (u.drive p).tag = (s.drive p).tag ∧
      CauseSet.has u.att.latched .lowerStall = true) ∧
  ∀ (p : Panto) (s : State), s.held = false → s.settled →
    ((s.drive p).state ≠ .fallingNormal ∨ (s.drive p).breakerWait = none →
      exec (.breakerWaitExpiry p) s = .next s) ∧
    ((s.drive p).state.falling = false ∨ (s.drive p).lowerTimer = none → exec (.lowerTimerExpiry p) s = .next s) ∧
    ((s.drive p).state ≠ .dropped ∨ (s.drive p).dropTimer = none → exec (.dropTimerExpiry p) s = .next s)

/-- A completed cell write leaves what the cell reads back, and the volatile lockout as it was (R22, R23): a good verify
sets the met mark and clears an acknowledged LOCKOUT_STORE_FAULT, a bad one latches it. A write asked for meanwhile goes
on (entry 19, the model's reading). The unlock enable latch is cleared by its timer (R25; entry 2 where it does not run). -/
def Obligations.CellWriteIsVerified : Prop :=
  (∀ (t : Time) (p : Panto) (r : CellValue) (s : State), s.held = false → s.settled →
    ((s.drive p).write = none → exec (.cellWriteComplete t p r) s = .next (s.advance t)) ∧
    (∀ v, (s.drive p).write = some v → ∃ u, exec (.cellWriteComplete t p r) s = .next u ∧
      Kept ((s.advance t).setDrive p { s.drive p with
        cell := r, write := (s.drive p).queued, queued := none }) u ∧
      (r = v → CauseSet.has u.att.met .lockoutStoreFault = true ∧
        (CauseSet.has s.att.pending .lockoutStoreFault = true →
          CauseSet.has u.att.latched .lockoutStoreFault = false)) ∧
      (r ≠ v → CauseSet.has u.att.met .lockoutStoreFault = false ∧
        CauseSet.has u.att.latched .lockoutStoreFault = true))) ∧
  ∀ s : State, s.held = false → s.settled →
    (s.unlock = none → exec .unlockEnableExpiry s = .next s) ∧
    (∀ d, s.unlock = some d → exec .unlockEnableExpiry s = .next ((s.advance d).withUnlock none))

/-! ## Commands of the line sense unit -/

/-- A sample enters the gate in progress (R30, R31, R32); the gate end gives the result, the runs and the confirmed class
(R34 to R37), and latches OVERVOLTAGE for a result of OVER and WRONG_SYSTEM from the fourth UNKNOWN in a row. The gate
report brings the result, the level and the class after the gate to the changeover controller and the peer view (R40). A
sample that finds the gate full ends it first, and a gate end elsewhere has no effect (entry 12). -/
def Obligations.SamplesAndGatesAreCounted : Prop :=
  (∀ (t : Time) (v : Option Int) (s : State) (n : Int) (pol : Polarity), s.held = false → s.settled →
    n = max (-600) (min 600 (v.getD 0)) →
    pol = (if 3 ≤ n then .pos else if n ≤ -3 then .neg else s.sense.polarity) → s.sense.position ≠ 480 →
    exec (.lineSample t v) s = .next ((s.advance t).withSense { s.sense with
      position := s.sense.position + 1
      polarity := pol
      crossings := if s.sense.polarity = .pos ∧ pol = .neg ∨ s.sense.polarity = .neg ∧ pol = .pos
        then min 63 (s.sense.crossings + 1) else s.sense.crossings
      sum := s.sense.sum + n.natAbs })) ∧
  (∀ (s : State) (r : LineClass), s.held = false → s.settled →
    r = classify s.sense.crossings (s.sense.sum / 480) →
    (s.sense.position ≠ 480 → exec .gateEnd s = .next s) ∧
    (s.sense.position = 480 → ∃ u, exec .gateEnd s = .next u ∧ Kept (s.withSense u.sense) u ∧
      u.sense.position = 0 ∧ u.sense.crossings = 0 ∧ u.sense.sum = 0 ∧ u.sense.polarity = s.sense.polarity ∧
      u.sense.newer = some r ∧ u.sense.older = s.sense.newer ∧
      u.sense.unknownRun = (if r = .unknown then min 255 (s.sense.unknownRun + 1) else 0) ∧
      u.sense.deadRun = (if r = .dead then min 255 (s.sense.deadRun + 1) else 0) ∧
      (∃ g : GateReport, g.result = r ∧ g.level = s.sense.sum / 480 ∧ g.confirmed = u.sense.confirmed ∧
        .chgGate g ∈ (senseGateEnd s).now ∧ .viewGate g ∈ (senseGateEnd s).now) ∧
      (r = .over → u.sense.confirmed = .over ∧ CauseSet.has u.att.latched .overvoltage = true) ∧
      (r = .unknown → u.sense.confirmed = s.sense.confirmed) ∧
      (r = .unknown → 3 ≤ s.sense.unknownRun → CauseSet.has s.att.pending .wrongSystem = false → u.settled →
        CauseSet.has u.att.latched .wrongSystem = true) ∧
      (r ≠ .over → r ≠ .unknown →
        u.sense.confirmed = if s.sense.newer = some r then r else s.sense.confirmed))) ∧
  ∀ (t : Time) (v : Option Int) (s : State), s.held = false → s.settled → s.sense.position = 480 →
    ∃ u, exec (.lineSample t v) s = .next u ∧ Kept ((s.advance t).withSense (s.sense.gateEnd.sample v)) u

/-! ## Commands of the peer view -/

/-- A status record from another station becomes or replaces its entry, fresh, and one bearing the own address restarts
the duplicate timer and latches DUP_STATION (R43, R48). Records age at 100 ms and go at 2 s, PEER_SILENT telling of one
whose pantographs stood presumed up (R44, R46), whatever the head kind announced (entry 40, the model's choice). The
frame's bytes decide which of the two record commands it is (entry 13); what is not in the table, or is stale already,
does not age, and a timer that does not run has no expiry (entry 2). -/
def Obligations.StatusRecordsMakeAndAgeEntries : Prop :=
  (∀ (t : Time) (f : List Byte) (a : Nat) (r : StatusRecord) (s : State) (c : Instr), s.held = false → s.settled →
    parseFrame f = some (.status a r) → s.hears t f → c = .statusRecord t f ∨ c = .duplicateRecord t f →
    (a ≠ s.start.address → ∃ u, exec c s = .next u ∧
      Kept ((s.afterFrame t f).withView { s.view with table := tablePut (.fresh a r (max s.now t)) s.view.table }) u) ∧
    (a = s.start.address → ∃ u, exec c s = .next u ∧ CauseSet.has u.att.latched .dupStation = true ∧
      Kept ((s.afterFrame t f).withView { s.view with dupTimer := some (max s.now t + 2 * Config.second) }) u)) ∧
  (∀ (a : Nat) (s : State), s.held = false → s.settled →
    (tableFind a s.view.table = none → exec (.entryStale a) s = .next s ∧ exec (.entryRemoval a) s = .next s) ∧
    (∀ e, tableFind a s.view.table = some e →
      (e.stale = true → exec (.entryStale a) s = .next s) ∧
      (e.stale = false → ∃ u, exec (.entryStale a) s = .next u ∧
        Kept ((s.advance (e.arrived + 100 * Config.ms)).withView { s.view with
          table := tablePut { e with
            stale := true
            presumed1 := e.record.panto1.state.countsRaised
            presumed2 := e.record.panto2.state.countsRaised } s.view.table }) u) ∧
      (∃ u, exec (.entryRemoval a) s = .next u ∧
        Kept ((s.advance (e.arrived + 2 * Config.second)).withView { s.view with
          table := s.view.table.filter fun x => x.address ≠ a }) u ∧
        (e.stale = true → e.presumed1 = true ∨ e.presumed2 = true →
          CauseSet.has u.att.latched .peerSilent = true) ∧
        (e.stale = true → e.presumed1 = false → e.presumed2 = false → u.settled →
          CauseSet.has u.att.latched .peerSilent = CauseSet.has s.att.latched .peerSilent)))) ∧
  ∀ s : State, s.held = false → s.settled →
    (s.view.dupTimer = none → exec .duplicateExpiry s = .next s) ∧
    (∀ d, s.view.dupTimer = some d → ∃ u, exec .duplicateExpiry s = .next u ∧
      Kept ((s.advance d).withView { s.view with dupTimer := none }) u ∧
      CauseSet.has u.att.latched .dupStation = false ∧
      (u.settled → s.start.mode = .listen → s.start.listen = none → u.start.mode ≠ .listen))

/-- A consist record replaces its cab's slot (R50), its block freezes an unfrozen configuration outside LISTEN or is
compared with the frozen one (R174, R177), and both slots are taken into the effective demand. Without an active record a
slot ages at 200 ms (R51). The entry to CONFLICT latches CAB_CONFLICT (R53), every other entry ends it, and the entry to
SOLE ends DEMAND_STALE and DEMAND_LOST (R52). A train without a cab goes to STALE at 200 ms and to LOST at 2 s, with their
causes (R54, R55); the stale demand returns a bidder with WITHHELD (R72; one that has crept is lowered, entry 37).
DEMAND_LOST, where it is enabled, lowers what is up normally with PROTECT and opens the request; where it is not, what is
up stays (R55, R146). A timer that does not run has no expiry (entry 2). -/
def Obligations.ConsistRecordsAndSilentCabs : Prop :=
  (∀ (t : Time) (f : List Byte) (e : CabEnd) (r : ConsistRecord) (s : State), s.held = false → s.settled →
    parseFrame f = some (.consist e r) → s.hears t f →
    ∃ u, exec (.consistRecord t f) s = .next u ∧
      Kept ((s.afterFrame t f).withView
        (s.view.setSlot e { record := some r, arrived := max s.now t, activeFresh := r.active })) u ∧
      (u.settled → u.view =
        (s.view.setSlot e { record := some r, arrived := max s.now t, activeFresh := r.active }).taken u.now) ∧
      (∀ b, r.block = some b → r.active = true → (s.view.slot e.other).activeFresh = false → s.start.mode ≠ .listen →
        (s.start.configState = .unfrozen → u.start.configState = .frozenConsist ∧ u.start.config = b.clamped ∧
          u.start.mode = .run ∧ ∀ p, u.start.position p = s.positionUnder p b.clamped.carLength) ∧
        (s.start.configState ≠ .unfrozen → b.clamped ≠ s.start.config →
          CauseSet.has u.att.latched .configMismatch = true)) ∧
      (r.block = none ∨ r.active = false ∨ (s.view.slot e.other).activeFresh = true ∨ s.start.mode = .listen →
        u.start = s.start)) ∧
  (∀ (e : CabEnd) (s : State), s.held = false → s.settled →
    ((s.view.slot e).activeFresh = false → exec (.slotExpiry e) s = .next s) ∧
    ((s.view.slot e).activeFresh = true → ∃ u, exec (.slotExpiry e) s = .next u ∧
      u.now = max s.now ((s.view.slot e).arrived + 200 * Config.ms) ∧
      u.view = (s.view.setSlot e { s.view.slot e with activeFresh := false }).taken u.now)) ∧
  (∀ (c : Instr) (s u : State), s.settled → exec c s = .next u → u.settled → u.view.mode ≠ s.view.mode →
    (u.view.mode = .conflict → CauseSet.has u.att.latched .cabConflict = true) ∧
    (u.view.mode ≠ .conflict → CauseSet.has u.att.latched .cabConflict = false) ∧
    (∀ e, u.view.mode = .sole e → CauseSet.has u.att.latched .demandStale = false ∧
      CauseSet.has u.att.latched .demandLost = false)) ∧
  ∀ s : State, s.held = false → s.settled →
    (s.view.mode ≠ .gap ∨ s.view.noCab = none → exec .noCabStale s = .next s) ∧
    (s.view.mode ≠ .stale ∨ s.view.noCab = none → exec .noCabLost s = .next s) ∧
    (∀ m, s.view.mode = .gap → s.view.noCab = some m → ∃ u, exec .noCabStale s = .next u ∧
      u.now = max s.now (m + 200 * Config.ms) ∧ u.view = { s.view with mode := .stale } ∧
      CauseSet.has u.att.latched .demandStale = true ∧
      ∀ p, s.engagedServed → s.attentionOk → s.detectedRight → s.adm.bidder = some p →
        (s.drive p).state.inBid = true → s.bidReturned p .withheld u) ∧
    (∀ m, s.view.mode = .stale → s.view.noCab = some m → ∃ u, exec .noCabLost s = .next u ∧
      u.now = max s.now (m + 2 * Config.second) ∧ u.view = { s.view with mode := .lost } ∧
      CauseSet.has u.att.latched .demandLost = true ∧
      ∀ p, s.attentionOk → s.detectedRight → s.protected → s.metDemandLost p u)

/-- The sense disagreement (R58, R59): at a gate end in STEADY or CONFIRMING the count rises, to 2 at most, where some
fresh entry announces a class other than DEAD and UNKNOWN that differs from the own one, and returns to 0 where none does
and in every other phase; at 2 SENSE_DISAGREE is latched, at 0 it clears. The phase and the class are those after the
gate. The premises are the order of the blocks that every step keeps (R62, R72, R142, R143). -/
def Obligations.SenseDisagreementIsCounted : Prop :=
  ∀ s : State, s.held = false → s.settled → s.sense.position = 480 → s.attentionOk → s.detectedRight → s.engagedServed →
    ∃ u, exec .gateEnd s = .next u ∧
      (u.settled →
        ((u.chg.phase = .steady ∨ u.chg.phase = .confirming) →
          (∃ e ∈ s.view.table, e.stale = false ∧ e.record.confirmed ≠ .dead ∧ e.record.confirmed ≠ .unknown ∧
            e.record.confirmed ≠ u.sense.confirmed) → u.view.disagree = min 2 (s.view.disagree + 1)) ∧
        (u.chg.phase ≠ .steady ∧ u.chg.phase ≠ .confirming ∨
          (∀ e ∈ s.view.table, e.stale = true ∨ e.record.confirmed = .dead ∨ e.record.confirmed = .unknown ∨
            e.record.confirmed = u.sense.confirmed) → u.view.disagree = 0) ∧
        (u.view.disagree = 2 → CauseSet.has u.att.latched .senseDisagree = true) ∧
        (u.view.disagree = 0 → CauseSet.has u.att.latched .senseDisagree = false) ∧
        (u.view.disagree = 1 →
          CauseSet.has u.att.latched .senseDisagree = CauseSet.has s.att.latched .senseDisagree))

/-! ## Commands of the admission unit -/

/-- The yield test and the peer drop ahead (R78, R81), and what a peer's record brings through them: a raised pantograph
that must yield is lowered, or returned from PREHEAT, with YIELDED (R79), also where a peer drop ahead stands in the same
event, since the yield is taken first (entries 6 and 18, the model's choice); a peer pantograph in DROPPED ahead on the
same system latches PEER_DROP_AHEAD, which lowers the own one with PROTECT where the cause is enabled; under neither, a
pantograph that is up stays as it is, and an acknowledged PEER_DROP_AHEAD clears (R82). A bidder in BIDDING whose window
has ended is tested again (R70): it is admitted under the new record, or stays in BIDDING. One admitted to RISING stands
there at any angle, also crept to 3800 counts or more, since the upper stop of R11 is not tested at the entry (entry 42,
the model's choice). One returned from PREHEAT that has crept is lowered (R6, entry 37). The going stale and the removal
of an entry bring the same two tests (R47, R82), and so does a demand change that names the direction (R80); one that
names the speed alone brings the yield test (R79). -/
def Obligations.YieldAndPeerDropAhead : Prop :=
  (∀ (s : State) (p : Panto) (x : System), (s.drive p).tag = some x →
    ∀ better : List Presented,
      better = (allPresented s).filter (fun m =>
        decide ((m.state = .preheat ∨ m.state = .rising ∨ m.state = .contact) ∧ m.tag = some x ∧
          ¬(m.address = s.start.address ∧ m.panto = p) ∧ betterRank s.view.heldValues.direction m (ownPanto s p) = true)) →
      (mustYield s p = true ↔
        s.start.config.raiseLimit x ≤ better.length ∨
        ∃ m ∈ better, max m.position (s.start.position p) - min m.position (s.start.position p) <
          min 400 (s.start.config.spacingBase + s.view.heldValues.speed * s.start.config.spacingGain / 100))) ∧
  (∀ s : State,
    dropAheadStands s = true ↔
      ∃ p, (s.drive p).fitted = true ∧ (s.drive p).state.up = true ∧ (s.drive p).tag.isSome = true ∧
        ∃ e ∈ s.view.table, e.stale = false ∧ ∃ q,
          (e.record.panto q).headKind ≠ .none ∧ (e.record.panto q).state = .dropped ∧
          (e.record.panto q).tag = (s.drive p).tag ∧
          (s.view.heldValues.direction = .aLeading →
            min 1023 (e.record.panto q).position < s.start.position p) ∧
          (s.view.heldValues.direction = .bLeading →
            1023 - min 1023 (e.record.panto q).position < 1023 - s.start.position p)) ∧
  (∀ (c : Instr) (a : Nat) (e : PeerEntry) (s w : State) (p : Panto), s.held = false → s.settled → s.oneEngaged →
    s.engagedServed → s.coursesOk → s.attentionOk → s.detectedRight → s.protected →
    tableFind a s.view.table = some e →
    (c = .entryStale a ∧ e.stale = false ∧
        w = (s.advance (e.arrived + 100 * Config.ms)).withView { s.view with
          table := tablePut { e with
            stale := true
            presumed1 := e.record.panto1.state.countsRaised
            presumed2 := e.record.panto2.state.countsRaised } s.view.table } ∨
      c = .entryRemoval a ∧
        w = (s.advance (e.arrived + 2 * Config.second)).withView { s.view with
          table := s.view.table.filter fun x => x.address ≠ a }) →
    ∃ u, exec c s = .next u ∧ s.yields w p u ∧
      ((s.drive p).state.up = true → mustYield w p = false → s.meetsDropAhead w p u)) ∧
  (∀ (t : Time) (f : List Byte) (e : CabEnd) (r : ConsistRecord) (s w : State) (p : Panto), s.held = false → s.settled →
    s.oneEngaged → s.engagedServed → s.coursesOk → s.attentionOk → s.detectedRight → s.protected →
    parseFrame f = some (.consist e r) → s.hears t f → s.view.mode = .sole e →
    (s.view.slot e.other).activeFresh = false → r.active = true → r.block = none →
    r.demand = s.view.heldValues.demand → r.system = s.view.heldValues.system →
    min 400 r.speed ≠ s.view.heldValues.speed ∨ r.direction ≠ s.view.heldValues.direction →
    w = s.withView { s.view with heldValues :=
      { s.view.heldValues with speed := min 400 r.speed, direction := r.direction } } →
    ∃ u, exec (.consistRecord t f) s = .next u ∧ s.yields w p u ∧
      ((s.drive p).state.up = true → mustYield w p = false →
        (r.direction ≠ s.view.heldValues.direction → s.meetsDropAhead w p u) ∧
        (r.direction = s.view.heldValues.direction →
          (u.drive p).state = (s.drive p).state ∧ (u.drive p).outcome = (s.drive p).outcome))) ∧
  ∀ (t : Time) (f : List Byte) (a : Nat) (r : StatusRecord) (s w : State) (p : Panto), s.held = false → s.settled →
    s.oneEngaged → s.coursesOk → s.attentionOk → s.detectedRight → s.protected → parseFrame f = some (.status a r) → s.hears t f →
    a ≠ s.start.address →
    w = (s.afterFrame t f).withView { s.view with table := tablePut (.fresh a r (max s.now t)) s.view.table } →
    ∃ u, exec (.statusRecord t f) s = .next u ∧ Kept w u ∧
      ((s.drive p).state.up = true → mustYield w p = true → (s.drive p).restClosed = false →
        (u.drive p).state.falling = true ∧ (u.drive p).outcome = .yielded) ∧
      ((s.drive p).state = .preheat → mustYield w p = true → (s.drive p).angle ≤ 40 →
        (u.drive p).state = .down ∧ (u.drive p).outcome = .yielded ∧ (u.drive p).tag = none ∧
        u.adm.holdoff = some (u.now + 1 * Config.second)) ∧
      (s.engagedServed → (s.drive p).state = .preheat → mustYield w p = true → s.bidReturned p .yielded u) ∧
      (s.engagedServed → s.adm.bidder = some p → (s.drive p).state = .bidding → s.adm.windowEnded = true →
        (admissible w p = false → (u.drive p).state = .bidding ∧ u.adm.bidder = some p) ∧
        (admissible w p = true → w.bidAdmitted w p u)) ∧
      ((s.drive p).state.up = true → mustYield w p = false → dropAheadStands w = true →
        CauseSet.has s.att.pending .peerDropAhead = false →
        CauseSet.has u.att.latched .peerDropAhead = true ∧
        (CauseSet.has s.start.config.enables .peerDropAhead = true → (s.drive p).restClosed = false →
          (u.drive p).state.falling = true ∧ (u.drive p).outcome = .protect) ∧
        (CauseSet.has s.start.config.enables .peerDropAhead = false →
          (u.drive p).state = (s.drive p).state ∧ u.adm.dropAhead = true)) ∧
      ((s.drive p).state.up = true → mustYield w p = false → dropAheadStands w = false → u.adm.dropAhead = false ∧
        (CauseSet.has s.att.pending .peerDropAhead = false →
          (u.drive p).state = (s.drive p).state ∧ (u.drive p).outcome = (s.drive p).outcome ∧
          u.att.latched = s.att.latched) ∧
        (CauseSet.has s.att.pending .peerDropAhead = true → u.settled →
          CauseSet.has u.att.latched .peerDropAhead = false))

/-- The end of the bid window: the timer alone does not end it, nor does the report alone (R66). The event after which
both are there applies the admission test, and so does, once the window has ended, a demand change that names speed or
direction and a change of the class, to DEAD as to any other, that leaves the phase open to bids (R70): a bidder that
fails it stays in BIDDING, one that passes goes to PREHEAT where preheat applies (R75), with its preheat timer at three
times the preheat time and no heated time, and else to RISING (R9); a lowering that meets it in the same event makes it
fall. It stands in RISING at any angle, also crept to 3800 counts or more, since the upper stop of R11 is not tested at
the entry (entry 42, the model's choice). The test at a demand change is stated for a record without a block and with no
acknowledged PEER_DROP_AHEAD that waits for its end. The bid timer returns a bidder to DOWN with NOT_ADMITTED and starts
the holdoff (R71, R74); one that has crept is lowered (R6, entry 37). A timer that does not run has no expiry (entry 2).
The premises beside the bid's own are the order of the blocks that every step keeps (R62, R72, R142, R143). -/
def Obligations.BidWindowAndBidTimer : Prop :=
  (∀ (s : State) (p : Panto),
    preheatApplies s p = true ↔
      s.heat.level = .heavy ∧ (s.drive p).fitted = true ∧ s.start.headCode ≠ 0 ∧ (s.heat.load (.head p)).failed = false ∧
        0 < s.start.config.preheat) ∧
  (∀ (s w : State) (d : Time), s.held = false → s.settled → s.adm.windowTimer = some d →
    w = (s.advance d).withAdm { s.adm with windowTimer := none } →
    (s.adm.frameCount ≠ 2 ∨ s.adm.windowEnded = true → exec .windowExpiry s = .next w) ∧
    (∀ p, s.adm.frameCount = 2 → s.adm.windowEnded = false → s.adm.bidder = some p → (s.drive p).state = .bidding →
      (admissible w p = false → exec .windowExpiry s = .next (w.withAdm { w.adm with windowEnded := true })) ∧
      (admissible w p = true → s.oneEngaged → s.engagedServed → s.attentionOk → s.detectedRight →
        ∃ u, exec .windowExpiry s = .next u ∧ s.bidAdmitted w p u ∧ Kept (s.advance d) u))) ∧
  (∀ (t : Time) (s w : State) (p : Panto) (y : Snapshot), s.held = false → s.settled → s.port.frame = .sending →
    s.port.snapshot = some y → s.adm.bidder = some p → (s.drive p).state = .bidding →
    (y.record.panto p).state = .bidding → s.adm.bidStart ≤ y.taken → s.adm.windowTimer = none → s.adm.windowEnded = false →
    1 ≤ s.adm.frameCount → CauseSet.has s.att.pending .lineFault = false → s.oneEngaged → s.engagedServed →
    s.attentionOk → s.detectedRight → w = s.advance t →
    ∃ u, exec (.success t) s = .next u ∧ u.now = w.now ∧
      (admissible w p = false → (u.drive p).state = .bidding ∧ u.adm.windowEnded = true ∧ u.adm.frameCount = 2) ∧
      (admissible w p = true → s.bidAdmitted w p u)) ∧
  (∀ (t : Time) (s : State) (p : Panto) (y : Snapshot), s.held = false → s.settled → s.port.frame = .sending →
    s.port.snapshot = some y → s.adm.bidder = some p → (s.drive p).state = .bidding → s.adm.windowEnded = false →
    CauseSet.has s.att.pending .lineFault = false → s.oneEngaged → s.engagedServed → s.attentionOk → s.detectedRight →
    s.adm.windowTimer.isSome = true ∨
      s.adm.frameCount +
        (if (y.record.panto p).state = .bidding ∧ s.adm.bidStart ≤ y.taken then 1 else 0) < 2 →
    ∃ u, exec (.success t) s = .next u ∧ u.adm.windowEnded = false ∧ u.adm.bidder = some p ∧
      (u.drive p).state = .bidding) ∧
  (∀ (t : Time) (f : List Byte) (e : CabEnd) (r : ConsistRecord) (s w : State) (p : Panto), s.held = false → s.settled →
    s.oneEngaged → s.engagedServed → s.attentionOk → s.detectedRight → s.adm.bidder = some p →
    (s.drive p).state = .bidding → s.adm.windowEnded = true →
    CauseSet.has s.att.pending .peerDropAhead = false → parseFrame f = some (.consist e r) → s.hears t f →
    s.view.mode = .sole e → (s.view.slot e.other).activeFresh = false → r.active = true → r.block = none →
    r.demand = .raise → r.system = s.view.heldValues.system →
    min 400 r.speed ≠ s.view.heldValues.speed ∨ r.direction ≠ s.view.heldValues.direction →
    w = s.withView { s.view with heldValues :=
      { s.view.heldValues with speed := min 400 r.speed, direction := r.direction } } →
    ∃ u, exec (.consistRecord t f) s = .next u ∧
      (admissible w p = false → (u.drive p).state = .bidding ∧ u.adm.bidder = some p) ∧
      (admissible w p = true → w.bidAdmitted w p u)) ∧
  (∀ (s w : State) (r : LineClass) (p : Panto), s.held = false → s.settled → s.sense.position = 480 → s.oneEngaged →
    s.engagedServed → s.attentionOk → s.detectedRight → s.adm.bidder = some p → (s.drive p).state = .bidding →
    s.adm.windowEnded = true → CauseSet.has s.att.latched .lineDead = false →
    r = classify s.sense.crossings (s.sense.sum / 480) → r ≠ .over →
    w = s.withSense s.sense.gateEnd → w.sense.confirmed = r → s.sense.confirmed ≠ r →
    s.chg.phase = .ready ∨ s.chg.phase = .confirming ∧ r = .dead ∨ r.isSystem s.view.heldValues.system = true →
    ∃ u, exec .gateEnd s = .next u ∧
      (admissible w p = false → (u.drive p).state = .bidding ∧ u.adm.bidder = some p) ∧
      (admissible w p = true → w.bidAdmitted w p u)) ∧
  (∀ (s : State) (p : Panto) (d : Time), s.held = false → s.settled → s.adm.bidTimer = some d → s.adm.bidder = some p →
    (s.drive p).state = .bidding →
    ∃ u, exec .bidTimeout s = .next u ∧ Kept (s.advance d) u ∧ s.bidReturned p .notAdmitted u) ∧
  ∀ s : State, s.held = false → s.settled →
    (s.adm.windowTimer = none → exec .windowExpiry s = .next s) ∧ (s.adm.bidTimer = none → exec .bidTimeout s = .next s)

/-- The start conditions of a bid (R63). A bid starts at the end of the holdoff where they hold, with the better-ranked
candidate (R64). A bidder in PREHEAT goes on to RISING, at its rest or off it (R9), when the heated time is reached or the
preheat timer expires (R76); one that must yield, or that meets a lowering in the same event, does not stay there. It
stands in RISING at any angle, also crept to 3800 counts or more, since the upper stop of R11 is not tested at the entry
(entry 42, the model's choice). The end by the heated time is stated for a stored total below the preheat time. The heated
time grows exactly by the time in which the head heater's output is on (R76). A timer that does not run has no expiry
(entry 2). -/
def Obligations.HoldoffEndsAndPreheatEnds : Prop :=
  (∀ (s : State) (x : System),
    startConditions s x = true ↔
      s.view.demand = .raise ∧ s.view.mode ≠ .conflict ∧ s.view.mode ≠ .stale ∧ s.view.mode ≠ .lost ∧ 3 ≤ s.att.level ∧
        s.start.mode = .run ∧ (s.chg.phase = .steady ∨ s.chg.phase = .ready ∨ s.chg.phase = .confirming) ∧
        s.chg.selector = .onSide (if x = .ac25 ∨ x = .ac15 then .ac else .dc) ∧
        (∀ p, (s.drive p).state = .down ∨ (s.drive p).state = .dropped) ∧ s.adm.holdoff = none ∧
        ((allPresented s).filter fun m =>
          decide ((m.state = .preheat ∨ m.state = .rising ∨ m.state = .contact) ∧ m.tag = some x)).length <
            s.start.config.raiseLimit x ∧
        ∃ p, (s.drive p).state = .down ∧ (s.drive p).isolate = false ∧ (s.drive p).lockout = false ∧
          (s.drive p).headKind = if x = .ac25 ∨ x = .ac15 then .ac else .dc) ∧
  (∀ (s w : State) (d : Time), s.held = false → s.settled → s.adm.holdoff = some d →
    w = (s.advance d).withAdm { s.adm with holdoff := none } →
    (s.view.heldValues.system = none → exec .holdoffExpiry s = .next w) ∧
    (∀ x, s.view.heldValues.system = some x →
      (startConditions w x = false → exec .holdoffExpiry s = .next w) ∧
      (startConditions w x = true → s.chg.lineDead = false → ∃ u, exec .holdoffExpiry s = .next u ∧ Kept (s.advance d) u ∧
        (u.drive (chosenBidder w x)).state = .bidding ∧ (u.drive (chosenBidder w x)).tag = some x ∧
        u.adm.bidder = some (chosenBidder w x) ∧ u.adm.openBid = some (chosenBidder w x) ∧ u.adm.frameCount = 0 ∧
        u.adm.windowEnded = false ∧ u.adm.windowTimer = some (u.now + 60 * Config.ms) ∧
        u.adm.bidTimer = some (u.now + 2 * Config.second) ∧
        candidate w x (chosenBidder w x) = true ∧
        (candidate w x .p1 = true → candidate w x .p2 = true →
          (chosenBidder w x = .p1 ↔ betterRank s.view.heldValues.direction (ownPanto w .p1) (ownPanto w .p2) = true))))) ∧
  (∀ (s : State) (p : Panto), s.held = false → s.settled → s.adm.bidder = some p → (s.drive p).state = .preheat →
    (∀ d, s.adm.preheatTimer = some d → ∃ u, exec .preheatTimeout s = .next u ∧ Kept (s.advance d) u ∧
      s.preheatEnded p u) ∧
    (∀ m, s.adm.heatedSince = some m → s.adm.heated < s.start.config.preheat * Config.second →
      ∃ u, exec .heatedTimeReached s = .next u ∧ s.preheatEnded p u ∧
        Kept (s.advance (m + (s.start.config.preheat * Config.second - s.adm.heated))) u)) ∧
  (∀ s u : State, s.settled → s.heatedRight → step s = .next u → u.settled → u.heatedRight ∧
    ∀ p, s.preheats p → u.preheats p →
      u.heatedTime = s.heatedTime + if (s.heat.load (.head p)).isOn = true then u.now - s.now else 0) ∧
  ∀ s : State, s.held = false → s.settled →
    (s.adm.holdoff = none → exec .holdoffExpiry s = .next s) ∧
    ((∀ p, s.adm.bidder = some p → (s.drive p).state ≠ .preheat) →
      exec .preheatTimeout s = .next s ∧ exec .heatedTimeReached s = .next s)

/-! ## Commands of the changeover controller -/

/-- The phases at a gate end, by the phase before it (R87, R89, R92 to R96). A confirmed class equal to no demanded system
leads from CONFIRMING to MISMATCH also where the demanded system is unknown (entry 39, the model's choice). A gate of OVER
takes the level to 0: the request is OPEN, each pantograph in RISING or CONTACT falls fast with PROTECT, one in FALLING
normal falls fast from then on with the outcome it had (R17, R19, R145), and a bidder is returned with PROTECT (R73). A
class that leads to MISMATCH returns it with WITHHELD, taken before WRONG_SYSTEM (R72, entry 18, the model's choice), and
so does a dead line that leads to PREPARING; one that has crept is lowered (R6, entry 37). For the phases the premises are
the order of the blocks that every step keeps (R101, R103, R142, R143), and rule out what would move the phase beside the
gate: an acknowledged cause that clears at it, a bid on a dead line, and a lowering that ends at once. -/
def Obligations.PhasesAtAGateEnd : Prop :=
  (∀ (s w : State) (r : LineClass), s.held = false → s.settled → s.sense.position = 480 → s.raisedOffRest → s.coursesOk →
    s.changeoverOk → s.attentionOk → s.detectedRight → (∀ p, (s.drive p).state.inBid = false) →
    CauseSet.has s.att.pending .wrongSystem = false → CauseSet.has s.att.pending .overvoltage = false →
    w = s.withSense s.sense.gateEnd → r = classify s.sense.crossings (s.sense.sum / 480) →
    ∃ u, exec .gateEnd s = .next u ∧ u.sense = w.sense ∧
      (u.settled →
        (s.chg.phase = .unset ∨ s.chg.phase = .clear → u.chg.phase = w.exitTo s.chg.phase) ∧
        (s.chg.phase = .steady → r = .dead → w.sense.confirmed = .dead → s.anyContact = true →
          u.chg.phase = .confirming ∧ u.chg.close = false ∧ ∀ p, (u.drive p).state = (s.drive p).state) ∧
        (s.chg.phase = .steady → w.sense.confirmed = .dead → s.anyContact = false →
          u.chg.close = false ∧ (s.notYetSafe → u.chg.phase = .preparing) ∧
          (¬s.notYetSafe → u.chg.phase = w.exitTo .clear)) ∧
        (s.chg.phase = .steady → w.sense.confirmed.isSystem s.view.heldValues.system = true → s.chg.close = true →
          u.chg.phase = .steady) ∧
        ((s.chg.phase = .steady ∨ s.chg.phase = .confirming) → w.sense.confirmed.live = true →
          w.sense.confirmed.isSystem s.view.heldValues.system = false →
          u.chg.phase = .mismatch ∧ u.chg.close = false ∧ CauseSet.has u.att.latched .wrongSystem = true ∧
          ∀ p, (s.drive p).fitted = true → (s.drive p).state.up = true → (u.drive p).state.falling = true ∧
            ((u.drive p).outcome = .lowered ∨ (u.drive p).outcome = .protect)) ∧
        (s.chg.phase = .ready → u.chg.phase = if r = .dead then .ready else .confirming) ∧
        (s.chg.phase = .confirming → w.sense.confirmed.isSystem s.view.heldValues.system = true →
          u.chg.phase = .steady ∧ (u.chg.close = true ↔ 2 ≤ u.att.level ∧ s.view.demand = .raise)) ∧
        (s.chg.phase = .confirming → w.sense.confirmed = .dead →
          u.chg.phase = .confirming ∧
          (r = .dead → u.chg.lineDead = (s.anyContact && decide (9 ≤ w.sense.deadRun)) ∧
            (u.chg.lineDead = true → CauseSet.has u.att.latched .lineDead = true) ∧
            (u.chg.lineDead = false → s.chg.lineDead = true → CauseSet.has u.att.latched .lineDead = false))) ∧
        (r ≠ .dead → u.chg.lineDead = false ∧
          (s.chg.lineDead = true → CauseSet.has u.att.latched .lineDead = false)) ∧
        (s.chg.phase = .preparing ∨ s.chg.phase = .selecting ∨ s.chg.phase = .mismatch →
          u.chg.phase = s.chg.phase))) ∧
  (∀ s : State, s.held = false → s.settled → s.sense.position = 480 → s.attentionOk → s.detectedRight →
    0 < s.att.level → classify s.sense.crossings (s.sense.sum / 480) = .over →
    ∃ u, exec .gateEnd s = .next u ∧ u.att.level = 0 ∧ u.chg.close = false ∧
      ∀ p, (s.drive p).fitted = true → s.fallsFast p u) ∧
  (∀ (s w : State) (r : LineClass) (p : Panto), s.held = false → s.settled → s.sense.position = 480 → s.engagedServed →
    s.attentionOk → s.detectedRight → s.adm.bidder = some p → (s.drive p).state.inBid = true →
    w = s.withSense s.sense.gateEnd → r = classify s.sense.crossings (s.sense.sum / 480) →
    (r = .over → ∃ u, exec .gateEnd s = .next u ∧ s.bidReturned p .protect u) ∧
    (r.live = true → r ≠ .over → w.sense.confirmed = r → r.isSystem s.view.heldValues.system = false →
      s.chg.phase = .steady ∨ s.chg.phase = .confirming → ∃ u, exec .gateEnd s = .next u ∧ s.bidReturned p .withheld u) ∧
    (r = .dead → w.sense.confirmed = .dead → s.chg.phase = .steady → s.anyContact = false →
      ∃ u, exec .gateEnd s = .next u ∧ s.bidReturned p .withheld u)) ∧
  ∀ (s w : State), s.held = false → s.settled → s.sense.position = 480 → s.changeoverOk → s.attentionOk →
    s.detectedRight → s.chg.phase = .mismatch → CauseSet.has s.att.latched .wrongSystem = true →
    CauseSet.has s.att.pending .wrongSystem = true → w = s.withSense s.sense.gateEnd →
    s.sense.confirmed ≠ .dead → w.sense.confirmed = .dead →
    ∃ u, exec .gateEnd s = .next u ∧
      (u.settled → u.chg.phase = w.exitTo .clear ∧ CauseSet.has u.att.latched .wrongSystem = false)

/-- The phases at a demand change that the sole cab's record brings, with speed and direction as they were (R88, R90, R91,
R93, R94, R95, R97, R99): a new demand or demanded system leads into PREPARING from STEADY, CONFIRMING and MISMATCH, to
the other side from SELECTING and READY, through the exits of UNSET and CLEAR, and lowers what R88, R94, R97 and R99 give;
a demand of RAISE reopens the way to CLOSE. Under PREPARING reached on a car already safe, the phase goes on through CLEAR
at once. A bidder that meets a demand other than RAISE, or a demanded system other than its tag, is returned with WITHHELD
(R72), whatever speed and direction the record names (entry 18, the model's choice); one that has crept is lowered (R6,
entry 37). READY goes to SELECTING under a latched SELECTOR_FAIL too (entry 44, the model's choice). -/
def Obligations.PhasesAtADemandChange : Prop :=
  (∀ (t : Time) (f : List Byte) (e : CabEnd) (r : ConsistRecord) (s : State) (p : Panto), s.held = false → s.settled →
    s.engagedServed → s.attentionOk → s.detectedRight → s.adm.bidder = some p → (s.drive p).state.inBid = true →
    parseFrame f = some (.consist e r) → s.hears t f → s.view.mode = .sole e →
    (s.view.slot e.other).activeFresh = false → r.active = true →
    r.block = none ∨ s.start.mode = .listen ∨ s.start.configState ≠ .unfrozen →
    r.demand ≠ .raise ∨ r.system ≠ (s.drive p).tag →
    ∃ u, exec (.consistRecord t f) s = .next u ∧ s.bidReturned p .withheld u) ∧
  ∀ (t : Time) (f : List Byte) (e : CabEnd) (r : ConsistRecord) (s w : State), s.held = false → s.settled →
    s.changeoverOk → s.coursesOk → s.raisedOffRest → s.oneEngaged → s.attentionOk → s.detectedRight →
    (∀ p, (s.drive p).state.inBid = false) → CauseSet.has s.att.pending .wrongSystem = false →
    CauseSet.has s.att.pending .breakerFail = false →
    parseFrame f = some (.consist e r) → s.hears t f → s.view.mode = .sole e → (s.view.slot e.other).activeFresh = false →
    r.active = true → r.block = none → min 400 r.speed = s.view.heldValues.speed →
    r.direction = s.view.heldValues.direction →
    w = s.withView { s.view with heldValues := { s.view.heldValues with demand := r.demand, system := r.system } } →
    ∃ u, exec (.consistRecord t f) s = .next u ∧ u.view.demand = r.demand ∧ u.view.heldValues.system = r.system ∧
      (u.settled →
        (r.demand = s.view.heldValues.demand → r.system = s.view.heldValues.system →
          u.chg.phase = s.chg.phase ∨ u.chg.phase = .confirming ∧ s.chg.phase = .steady) ∧
        (r.demand ≠ s.view.heldValues.demand → r.demand ≠ .raise →
          (r.demand = .lower → u.chg.close = false) ∧
          ∀ p, (s.drive p).fitted = true → (s.drive p).state.up = true →
            (u.drive p).state = .fallingNormal ∧ (u.drive p).outcome = .lowered) ∧
        (s.chg.phase = .unset ∨ s.chg.phase = .clear →
          r.demand ≠ s.view.heldValues.demand ∨ r.system ≠ s.view.heldValues.system →
          u.chg.phase = w.exitTo s.chg.phase) ∧
        (s.preparesAt r → u.chg.close = false ∧ (s.notYetSafe → u.chg.phase = .preparing) ∧
          (¬s.notYetSafe → u.chg.phase = w.exitTo .clear) ∧
          ∀ p, (s.drive p).fitted = true → (s.drive p).state.up = true →
            (u.drive p).state = .fallingNormal ∧ (u.drive p).outcome = .lowered) ∧
        (s.chg.phase = .steady → ¬s.preparesAt r → s.chg.close = true → r.demand ≠ .lower → u.chg.phase = .steady) ∧
        (s.chg.phase = .steady → ¬s.preparesAt r → r.demand = .lower → r.demand ≠ s.view.heldValues.demand →
          u.chg.phase = .steady) ∧
        (s.chg.phase = .steady → ¬s.preparesAt r → s.chg.close = false → r.demand = .raise →
          r.demand ≠ s.view.heldValues.demand → u.chg.phase = if 2 ≤ s.att.level then .confirming else .steady) ∧
        (s.chg.phase = .preparing → u.chg.phase = .preparing) ∧
        ((s.chg.phase = .confirming ∨ s.chg.phase = .mismatch) → ¬s.preparesAt r → u.chg.phase = s.chg.phase) ∧
        (s.chg.phase = .selecting → u.chg.phase = .selecting ∧
          (∀ x side, r.system = some x → r.system ≠ s.view.heldValues.system → s.chg.target = some side →
            u.chg.target = some x.side ∧
            (x.side = side → u.chg.transit = s.chg.transit ∧ u.chg.pause = s.chg.pause ∧ u.chg.motor = s.chg.motor) ∧
            (x.side ≠ side → u.chg.transit = none ∧ u.chg.motor = .stopped ∧
              u.chg.pause = some (s.chg.pause.getD (u.now + 200 * Config.ms)))) ∧
          (r.system = none → u.chg.target = s.chg.target ∧ u.chg.transit = s.chg.transit)) ∧
        (s.chg.phase = .ready →
          (r.system = none ∨ r.system = s.view.heldValues.system → u.chg.phase = .ready) ∧
          ∀ x, r.system = some x → r.system ≠ s.view.heldValues.system →
            (s.chg.selector = .onSide x.side → u.chg.phase = .ready ∧
              ∀ p, (s.drive p).fitted = true → (s.drive p).state.up = true → (s.drive p).tag ≠ some x →
                (u.drive p).state = .fallingNormal ∧ (u.drive p).outcome = .lowered) ∧
            (s.chg.selector ≠ .onSide x.side →
              (∀ p, (s.drive p).fitted = true → (s.drive p).state.up = true →
                (u.drive p).state = .fallingNormal ∧ (u.drive p).outcome = .lowered) ∧
              (s.chg.validFor x.side = true → u.chg.phase = .ready ∧ u.chg.selector = .onSide x.side) ∧
              (s.chg.validFor x.side = false → u.chg.phase = .selecting ∧ u.chg.target = some x.side ∧
                u.chg.selector = .moving ∧ u.chg.transit = some (u.now + 3 * Config.second)))))

/-- A transit that times out leaves the selector LOST, the phase CLEAR and SELECTOR_FAIL latched (R93, R98); the end of a
retarget pause starts a fresh transit, which arrives at once under a valid reading (R99). A timer that does not run has no
expiry (entry 2). -/
def Obligations.TransitsEndAndStartAnew : Prop :=
  ∀ s : State, s.held = false → s.settled → s.changeoverOk →
    (s.chg.transit = none → exec .transitTimeout s = .next s) ∧
    (s.chg.pause = none → exec .retargetPauseEnd s = .next s) ∧
    (∀ d, s.chg.transit = some d → ∃ u, exec .transitTimeout s = .next u ∧ Kept (s.advance d) u ∧
      u.chg.selector = .lost ∧ u.chg.target = none ∧ u.chg.motor = .stopped ∧ u.chg.transit = none ∧
      u.chg.pause = none ∧ u.chg.phase = .clear ∧ CauseSet.has u.att.latched .selectorFail = true) ∧
    (∀ d side, s.chg.pause = some d → s.chg.target = some side →
      (s.chg.validFor side = false → exec .retargetPauseEnd s = .next ((s.advance d).withChg { s.chg with
        transit := some (max s.now d + 3 * Config.second), pause := none
        motor := if s.chg.closed then .stopped else .toward side })) ∧
      (s.chg.validFor side = true → ∃ u, exec .retargetPauseEnd s = .next u ∧ Kept (s.advance d) u ∧
        u.chg.selector = .onSide side ∧ u.chg.target = none ∧ u.chg.motor = .stopped ∧ u.chg.transit = none ∧
        u.chg.pause = none ∧ u.chg.phase = .ready))

/-- A change of an end switch (R98, R100): it ends a transit at its target side, makes a position that no longer matches
LOST with SELECTOR_FAIL latched and the phases that need the selector left, and gives a LOST position the side read. A
position that becomes LOST lowers each pantograph in RISING or CONTACT with LOWERED (R99, R100) and returns a bidder with
WITHHELD (R72; one that has crept is lowered, entry 37). Every command keeps the selector on the side that serves the tag
of each pantograph in BIDDING, PREHEAT, RISING or CONTACT (R72, R99), once everything it brings about is done, and leaves
none in BIDDING or PREHEAT under any ground of a return (R72, R73): another demand than RAISE, a stale RAISE, a conflict
in BIDDING, a demanded system other than its tag, a level below 3, a phase other than STEADY, READY and CONFIRMING. -/
def Obligations.EndSwitchMovesThePosition : Prop :=
  (∀ s u : State, s.settled → s.coursesOk → s.engagedServed → step s = .next u → u.settled → u.engagedServed) ∧
  ∀ (t : Time) (x y : Bool) (s w : State), s.held = false → s.settled → s.changeoverOk →
    w = (s.advance t).withChg { s.chg with endAC := x, endDC := y } →
    (s.chg.endAC = x ∧ s.chg.endDC = y → exec (.endSwitchChange t x y) s = .next (s.advance t)) ∧
    (¬(s.chg.endAC = x ∧ s.chg.endDC = y) → ∃ u, exec (.endSwitchChange t x y) s = .next u ∧ Kept w u ∧
      (∀ side, s.chg.target = some side → s.chg.transit.isSome = true → s.chg.pause = none →
        w.chg.validFor side = true →
        u.chg.selector = .onSide side ∧ u.chg.target = none ∧ u.chg.motor = .stopped ∧ u.chg.transit = none ∧
          u.chg.phase = .ready) ∧
      (∀ side, s.chg.target = some side → s.chg.transit = none ∨ s.chg.pause.isSome = true ∨ w.chg.validFor side = false →
        CauseSet.has s.att.pending .selectorFail = false → u = w) ∧
      (∀ side, s.chg.selector = .onSide side → w.chg.validFor side = false →
        u.chg.selector = .lost ∧ CauseSet.has u.att.latched .selectorFail = true ∧ u.chg.phase ≠ .steady ∧
          u.chg.phase ≠ .ready ∧ u.chg.phase ≠ .confirming) ∧
      (∀ side, s.chg.selector = .lost → w.chg.validFor side = true →
        CauseSet.has s.att.latched .selectorFail = true → CauseSet.has s.att.pending .selectorFail = false →
        u.chg.selector = .onSide side ∧ CauseSet.has u.att.latched .selectorFail = true) ∧
      (∀ side, s.chg.selector = .lost → w.chg.validFor side = true →
        CauseSet.has s.att.pending .selectorFail = true → u.settled →
        CauseSet.has u.att.latched .selectorFail = false) ∧
      (∀ side p, s.chg.selector = .onSide side → w.chg.validFor side = false → s.oneEngaged → s.attentionOk →
        s.detectedRight → (s.drive p).fitted = true → (s.drive p).state.up = true → (s.drive p).restClosed = false →
        (u.drive p).state = .fallingNormal ∧ (u.drive p).outcome = .lowered) ∧
      (∀ side p, s.chg.selector = .onSide side → w.chg.validFor side = false → s.engagedServed → s.attentionOk →
        s.detectedRight → s.adm.bidder = some p → (s.drive p).state.inBid = true → s.bidReturned p .withheld u))

/-- The breaker watch (R103): a change of the feedback starts the disagreement timer at 500 ms where request and feedback
then disagree and stops it where they agree; its expiry latches BREAKER_FAIL and puts the request to OPEN. A feedback that
opens ends the breaker wait of a normal lowering, whose ramp begins there (R18), and leads from PREPARING to CLEAR and
through its exits once every fitted pantograph is in DOWN or DROPPED (R91, R92). A timer that does not run has no expiry
(entry 2). -/
def Obligations.BreakerFeedbackIsWatched : Prop :=
  (∀ (t : Time) (x : Bool) (s : State), s.held = false → s.settled →
    (s.chg.closed = x → exec (.breakerFeedbackChange t x) s = .next (s.advance t)) ∧
    (s.chg.closed ≠ x → ∃ u, exec (.breakerFeedbackChange t x) s = .next u ∧
      Kept ((s.advance t).withChg { s.chg with closed := x }) u ∧
      u.chg.disagree = (if u.chg.close = u.chg.closed then none else some (u.now + 500 * Config.ms)) ∧
      (s.chg.close = false → u.chg.close = false) ∧
      (x = false → ∀ p, (s.drive p).state = .fallingNormal → (s.drive p).breakerWait.isSome = true →
        (s.drive p).restClosed = false → (u.drive p).breakerWait = none ∧
          (s.attentionOk → s.detectedRight → (u.drive p).state = .fallingNormal ∧
            ∀ v, (s.drive p).setpoint = .held v → (u.drive p).setpoint = .ramp v u.now)) ∧
      (s.chg.phase = .preparing → u.settled →
        (x = true ∨ (∃ p, (s.drive p).fitted = true ∧ (s.drive p).restClosed = false ∧
            ((s.drive p).state.up = true ∨ (s.drive p).state.falling = true)) → u.chg.phase = .preparing) ∧
        (x = false → (∀ p, (s.drive p).fitted = true → (s.drive p).state = .down ∨ (s.drive p).state = .dropped) →
          u.chg.phase = ((s.advance t).withChg { s.chg with closed := x }).exitTo .clear)))) ∧
  ∀ s : State, s.held = false → s.settled →
    (s.chg.disagree = none → exec .breakerDisagreeExpiry s = .next s) ∧
    (∀ d, s.chg.disagree = some d → ∃ u, exec .breakerDisagreeExpiry s = .next u ∧ Kept (s.advance d) u ∧
      u.chg.close = false ∧
      (CauseSet.has s.att.pending .breakerFail = false → CauseSet.has u.att.latched .breakerFail = true))

/-! ## Commands of the arc monitor and the ice and heating unit -/

/-- A channel watches exactly while its pantograph is in CONTACT under a closed feedback (R107): every command keeps it,
once everything it brings about is done, and a channel that comes out of OFF is WATCHING. A current sample (R106 to R111):
it enters the mean window; a watched channel takes a sample below a twentieth of a mean of 20 A or more for an
interruption, and the sample that ends one makes it a glitch, an arc or a long arc by its length. -/
def Obligations.CurrentSamplesMakeArcs : Prop :=
  (∀ s u : State, s.settled → s.watchesRight → step s = .next u → u.settled → u.watchesRight ∧
    ∀ p, (s.arc.channel p).watch = .off → (u.arc.channel p).watch = .off ∨ (u.arc.channel p).watch = .watching) ∧
  ∀ (t : Time) (p : Panto) (v : Option Nat) (s : State) (x : Nat) (c : Channel), s.held = false → s.settled →
    x = min 4095 (v.getD 0) → c = s.arc.channel p →
    ((s.drive p).fitted = false → exec (.currentSample t p v) s = .next (s.advance t)) ∧
    ((s.drive p).fitted = true → ∃ c' n,
      exec (.currentSample t p v) s = .next ((s.advance t).withArc { s.arc.setChannel p c' with second := n }) ∧
      c'.window = x :: c.window.take 399 ∧ c'.mean = c'.window.sum / 400 ∧
      (c.watch = .off → c'.watch = .off) ∧
      (c.watch = .watching → 20 ≤ c.mean → x < c.mean / 20 →
        c'.watch = .interrupted ∧ c'.threshold = c.mean / 20 ∧ c'.length = 1) ∧
      (c.watch = .watching → c.mean < 20 ∨ c.mean / 20 ≤ x → c'.watch = .watching) ∧
      (c.watch = .interrupted → x < c.threshold → c'.length = c.length + 1 ∧ c'.threshold = c.threshold ∧
        c'.watch = if c.length = 2000 then .lost else .interrupted) ∧
      (c.watch = .interrupted → c.threshold ≤ x → c'.watch = .watching) ∧
      (c.watch = .lost → c'.watch = if x < c.threshold then .lost else .watching) ∧
      (c.watch ≠ .interrupted ∨ x < c.threshold ∨ c.length < 4 →
        n = s.arc.second ∧ c'.arcs = c.arcs ∧ c'.longArcs = c.longArcs ∧ c'.firstArc = c.firstArc ∧
          c'.firstLong = c.firstLong) ∧
      (c.watch = .interrupted → c.threshold ≤ x → 4 ≤ c.length →
        n = min 255 (s.arc.second + 1) ∧ c'.arcs = min 255 (c.arcs + 1) ∧
          c'.firstArc = some (c.firstArc.getD s.view.heldValues.marker) ∧
          (c.length < 80 → c'.longArcs = c.longArcs ∧ c'.firstLong = c.firstLong) ∧
          (80 ≤ c.length → c'.longArcs = min 15 (c.longArcs + 1) ∧
            c'.firstLong = some (c.firstLong.getD s.view.heldValues.marker))))

/-- The second report (R112, R113, R118 to R120): the second count enters the ring and starts anew, ARC_BURST is latched
at a ring sum of 20 or more, and below it clears if it was acknowledged, and the ice index takes its step with the
saturation flag and the level; ICE_HEAVY is latched while the level is HEAVY and clears with the step that leaves it
(R122). A reading replaces a held value, clamped (R117). A timer that does not run has no expiry (entry 2). -/
def Obligations.AssessmentStepsTheIceIndex : Prop :=
  (∀ (s : State) (d : Time) (ring : List Nat) (sum : Nat), s.held = false → s.settled → s.arc.assess = some d →
    ring = s.arc.ring.drop 1 ++ [s.arc.second] →
    (sum : Int) = (s.heat.index : Int) - ((s.heat.index + 63) / 64 : Nat)
      + min 150 (max 0 (-s.heat.temperature)) * min 30 ((s.heat.humidity - 70 : Nat) : Int) + 64 * s.arc.second →
    ∃ u, exec .assessmentExpiry s = .next u ∧
      Kept ((s.advance d).withArc { s.arc with ring := ring, second := 0, assess := some (d + 1 * Config.second) }) u ∧
      (20 ≤ ring.sum → CauseSet.has u.att.latched .arcBurst = true) ∧
      (ring.sum < 20 → CauseSet.has u.att.latched .arcBurst =
        (CauseSet.has s.att.latched .arcBurst && !CauseSet.has s.att.pending .arcBurst)) ∧
      (u.settled →
        u.heat.index = min 1048575 sum ∧
        (u.heat.saturated = true ↔ s.heat.saturated = true ∨ 1048575 < sum) ∧
        (u.heat.saturated = true ∨ 250000 ≤ u.heat.index → u.heat.level = .heavy) ∧
        (u.heat.saturated = false →
          (187500 ≤ u.heat.index ∧ u.heat.index < 250000 →
            u.heat.level = if s.heat.level = .heavy then .heavy else .light) ∧
          (100000 ≤ u.heat.index ∧ u.heat.index < 187500 → u.heat.level = .light) ∧
          (75000 ≤ u.heat.index ∧ u.heat.index < 100000 →
            u.heat.level = if s.heat.level = .none then .none else .light) ∧
          (u.heat.index < 75000 → u.heat.level = .none)) ∧
        (u.heat.level = .heavy → CauseSet.has u.att.latched .iceHeavy = true) ∧
        (u.heat.level ≠ .heavy →
          CauseSet.has u.att.latched .iceHeavy = (decide (s.heat.level ≠ .heavy) && CauseSet.has s.att.latched .iceHeavy)))) ∧
  (∀ s : State, s.held = false → s.settled → s.arc.assess = none → exec .assessmentExpiry s = .next s) ∧
  ∀ (t : Time) (x : Int) (s : State), s.held = false → s.settled →
    exec (.weatherReading t (.temperature x)) s =
      .next ((s.advance t).withHeat { s.heat with temperature := max (-400) (min 600 x) }) ∧
    exec (.weatherReading t (.humidity x)) s =
      .next ((s.advance t).withHeat { s.heat with humidity := (max 0 (min 100 x)).toNat })

/-- The claim and its shares. The claimed loads are those of R124, the claim the sum of their ratings, or 0 where R125
bars it, and the grant that of the own claim in the water-fill with the peers' claims (R128). Every command keeps claim,
grant and outputs so, once everything it brings about is done (R126, R128, R130, R133). A recomputation of the claim
takes the grant anew where the claim has changed, and leaves it where the claim stands; one of the grant leaves the
claim; both apportion the grant they end with (R126, R128). A load that comes to its share (R130, R131) is full on or OFF
at once, without period or pending duty; comes into PWM with a fresh period of 10 s; and in PWM takes another duty as its
pending duty (that a return to the current duty drops the pending one is entry 16). Under the force-off every load is OFF
(R133), and its watch starts or stops where its output changes (R134). -/
def Obligations.LoadsTakeTheirShares : Prop :=
  (∀ (s : State) (l : Load),
    (claimed s l = true ↔
      rating s l ≠ 0 ∧ (s.heat.load l).failed = false ∧
        (match l with
          | .insulator =>
            s.view.heldValues.deIce = .forced ∨ s.view.heldValues.deIce = .auto ∧ s.heat.level ≠ .none
          | .head p =>
            (s.drive p).state = .preheat ∨ s.view.heldValues.deIce = .forced ∧ (s.drive p).fitted = true ∨
              s.view.heldValues.deIce = .auto ∧ s.heat.level = .heavy ∧ (s.drive p).fitted = true ∧
                (s.drive p).isolate = false ∧ (s.drive p).lockout = false)) ∧
    (rating s l = match l with
      | .insulator => 20 * s.start.insCode
      | .head p => if (s.drive p).fitted then 10 * s.start.headCode else 0) ∧
    (claimOf s =
      if s.att.level ≤ 3 ∨ s.chg.closed = false ∨ s.chg.selector = .moving ∨ s.chg.selector = .lost then 0
      else (([Load.insulator, .head .p1, .head .p2].filter (claimed s)).map (rating s)).sum)) ∧
  (∀ (s : State) (own : Nat),
    (own, grantOf s own) ∈ waterFill s.start.config.budget (own :: s.view.table.map fun e => min 250 e.record.claim)) ∧
  (∀ s u : State, s.settled → s.heatingRight → step s = .next u → u.settled → u.heatingRight) ∧
  (∀ s u : State, u = (heatClaim s).st →
    u.heat.claim = claimOf s ∧
    (claimOf s ≠ s.heat.claim → (u.heat.claim, u.heat.grant) ∈
      waterFill s.start.config.budget (claimOf s :: s.view.table.map fun e => min 250 e.record.claim)) ∧
    (claimOf s = s.heat.claim → u.heat.grant = s.heat.grant) ∧
    ∀ l, u.heat.load l = s.heat.apportioned s u.heat.grant l) ∧
  (∀ s u : State, u = (heatGrant s).st →
    u.heat.claim = s.heat.claim ∧ (u.heat.claim, u.heat.grant) ∈
      waterFill s.start.config.budget (s.heat.claim :: s.view.table.map fun e => min 250 e.record.claim) ∧
    ∀ l, u.heat.load l = s.heat.apportioned s u.heat.grant l) ∧
  ∀ (s : State) (grant : Nat) (l : Load) (x y : LoadState), x = s.heat.load l → y = s.heat.apportioned s grant l →
    y.feedback = x.feedback ∧ y.failed = x.failed ∧
    (s.heat.forceOff = true ∨ shareOf s grant l = .off →
      y.output = .off ∧ y.onPart = false ∧ y.pendingDuty = none ∧ y.period = none) ∧
    (s.heat.forceOff = false → shareOf s grant l = .full →
      y.output = .on ∧ y.onPart = false ∧ y.pendingDuty = none ∧ y.period = none) ∧
    (∀ d, s.heat.forceOff = false → shareOf s grant l = .part d →
      ((∀ cur, x.output ≠ .pwm cur) →
        y.output = .pwm d ∧ y.onPart = true ∧ y.pendingDuty = none ∧ y.period = some (s.now + 10 * Config.second)) ∧
      (∀ cur, x.output = .pwm cur → y.output = x.output ∧ y.onPart = x.onPart ∧ y.period = x.period ∧
        y.pendingDuty = if x.pendingDuty.getD cur = d then x.pendingDuty else some d)) ∧
    (loadFitted s l = true → x.isOn ≠ y.isOn →
      y.watch = if y.isOn = x.feedback then none else some (s.now + 2 * Config.second)) ∧
    (loadFitted s l = false ∨ x.isOn = y.isOn → y.watch = x.watch)

/-- The events at a heater load (R131, R134, R135): a period ends in a new one with the pending duty, the on part ends
duty × 100 ms into it, a change of the feedback, or of the output at a new period and at the end of its on part, is
watched for 2 s of disagreement, and a load found failed is switched OFF with HEATER_FAULT latched. A timer that does not
run has no expiry (entry 2). -/
def Obligations.HeaterLoadsFollowTheirTimers : Prop :=
  ∀ (l : Load) (s : State) (x : LoadState), s.held = false → s.settled → x = s.heat.load l →
    ((∀ duty, x.output ≠ .pwm duty) ∨ x.period = none →
      exec (.pwmPeriodExpiry l) s = .next s ∧ exec (.pwmOnPartEnd l) s = .next s) ∧
    (∀ duty d, x.output = .pwm duty → x.period = some d →
      (∃ u, exec (.pwmPeriodExpiry l) s = .next u ∧ Kept (s.advance d) u ∧
        (u.heat.load l).output = .pwm (x.pendingDuty.getD duty) ∧ (u.heat.load l).pendingDuty = none ∧
        (u.heat.load l).onPart = true ∧ (u.heat.load l).period = some (d + 10 * Config.second) ∧
        (u.heat.load l).watch = (if loadFitted s l = false ∨ x.onPart = true then x.watch
          else if x.feedback = true then none else some (u.now + 2 * Config.second)) ∧
        ∀ m, m ≠ l → u.heat.load m = s.heat.load m) ∧
      (x.onPart = false → exec (.pwmOnPartEnd l) s = .next s) ∧
      (x.onPart = true → ∃ u, exec (.pwmOnPartEnd l) s = .next u ∧
        u.now = max s.now (d - 10 * Config.second + duty * (100 * Config.ms)) ∧
        (u.heat.load l).output = .pwm duty ∧ (u.heat.load l).onPart = false ∧ (u.heat.load l).period = some d ∧
        (u.heat.load l).watch = (if loadFitted s l = false then x.watch
          else if x.feedback = false then none else some (u.now + 2 * Config.second)) ∧
        (u.heat.load l).pendingDuty = x.pendingDuty ∧ ∀ m, m ≠ l → u.heat.load m = s.heat.load m)) ∧
    (∀ (t : Time) (b : Bool),
      (loadFitted s l = false ∨ x.feedback = b → exec (.heaterFeedbackChange t l b) s = .next (s.advance t)) ∧
      (loadFitted s l = true → x.feedback ≠ b →
        exec (.heaterFeedbackChange t l b) s = .next ((s.advance t).withHeat (s.heat.setLoad l { x with
          feedback := b, watch := if x.isOn = b then none else some (max s.now t + 2 * Config.second) })))) ∧
    (x.watch = none → exec (.heaterDisagreeExpiry l) s = .next s) ∧
    (∀ d, x.watch = some d → ∃ u, exec (.heaterDisagreeExpiry l) s = .next u ∧ Kept (s.advance d) u ∧
      (u.heat.load l).failed = true ∧ CauseSet.has u.att.latched .heaterFault = true ∧
      (u.settled → (u.heat.load l).output = .off))

/-! ## Orders -/

/-- An order that is not addressed to the station leaves it alone (R158); a refused one is recorded with its outcome, has
a status frame fall due and clears the unlock enable latch, but for an UNLOCK refused as busy (R25, R26, R167, R168); one
that ends with DONE, but for RESTART, is recorded as DONE, and UNLOCK_ENABLE sets the latch for 10 s (R25). Which order a
frame brings is read from its bytes, under each of the seven command names (entry 13, the model's choice). -/
def Obligations.OrdersAreRecorded : Prop :=
  ∀ (t : Time) (f : List Byte) (o : OrderRecord) (c : Instr) (s w : State), s.held = false → s.settled →
    parseFrame f = some (.order o) → s.hears t f → c ∈ orderCommands t f → w = s.afterFrame t f →
    (o.target ≠ s.start.address ∧ o.target ≠ 0 → exec c s = .next w) ∧
    (o.target = s.start.address ∨ o.target = 0 →
      (∀ x, s.refuses o x → exec c s = .next (portDue
        ((w.withUnlock (if o.kind = .unlock ∧ x = .refusedBusy then s.unlock else none)).withPort
          { w.port with lastOrder := some o.kind, lastOutcome := some x }) true)) ∧
      ((∀ x, ¬s.refuses o x) → o.kind ≠ .restart → ∃ u, exec c s = .next u ∧ u.now = max s.now t ∧
        u.port.lastOrder = some o.kind ∧ u.port.lastOutcome = some .done ∧
        u.unlock = if o.kind = .unlockEnable then some (u.now + 10 * Config.second) else none))

/-- The clearing condition of each cause (R149), and ACK_CAUSE (R148, R150): a cause that is not latched or clears on its
own is left alone, one whose clearing condition does not hold is marked, and another clears with its mark. The condition
of PEER_DROP_AHEAD holds as the unit last found it (R82), so its clause asks that none stands now. -/
def Obligations.AcknowledgeClearsOrMarks : Prop :=
  (∀ s : State,
    (clearingHolds s .overvoltage = true ↔ s.sense.confirmed ≠ .over) ∧
    (clearingHolds s .wrongSystem = true ↔ s.chg.phase ≠ .mismatch ∨ s.sense.confirmed = .dead) ∧
    (clearingHolds s .encoderFault = true ↔ ∀ p, (s.drive p).fitted = true → (s.drive p).quietTimer = none) ∧
    (clearingHolds s .breakerFail = true ↔ s.chg.close = s.chg.closed) ∧
    (clearingHolds s .peerDropAhead = true ↔ s.adm.dropAhead = false) ∧
    (clearingHolds s .lowerStall = true ↔ ∀ p, (s.drive p).fitted = true → (s.drive p).restClosed = true) ∧
    (clearingHolds s .selectorFail = true ↔ s.chg.endAC ≠ s.chg.endDC) ∧
    (clearingHolds s .arcBurst = true ↔ s.arc.ring.sum < 20) ∧
    (clearingHolds s .lineFault = CauseSet.has s.att.met .lineFault) ∧
    (clearingHolds s .lockoutStoreFault = CauseSet.has s.att.met .lockoutStoreFault) ∧
    ∀ c ∈ [Cause.pantoDrop, .raiseStall, .noWire, .heaterFault, .peerSilent, .configMismatch],
      clearingHolds s c = true) ∧
  ∀ (t : Time) (f : List Byte) (o : OrderRecord) (c : Cause) (s : State), s.held = false → s.settled →
    parseFrame f = some (.order o) → s.hears t f → o.kind = .ackCause → o.arg = c.number → s.takes o →
    ∃ u, exec (.ackCause t f) s = .next u ∧ u.now = max s.now t ∧ u.port.lastOutcome = some .done ∧
      (CauseSet.has s.att.latched c = false ∨ c.clearsItself = true → u.att = s.att) ∧
      (CauseSet.has s.att.latched c = true → c.clearsItself = false → clearingHolds s c = false →
        u.att = { s.att with pending := CauseSet.add s.att.pending c }) ∧
      (CauseSet.has s.att.latched c = true → c.clearsItself = false → clearingHolds s c = true →
        (c = .peerDropAhead → dropAheadStands s = false) → u.settled →
        CauseSet.has u.att.latched c = false ∧ CauseSet.has u.att.pending c = false)

/-- The orders at the drives: ISOLATE sets the flag of the pantograph it names and lowers one that is up, normally, or
returns it from a bid, with outcome LOWERED in either case, RESTORE clears the flag (R21); neither changes a flag of the
other pantograph, nor does UNLOCK; UNLOCK_ENABLE sets the latch alone (R25); UNLOCK under the latch, in DOWN and with the
cell idle, clears the lockout and asks for a write of CLEAR (R26). -/
def Obligations.DriveOrdersActOnThePantographTheyName : Prop :=
  ∀ (t : Time) (f : List Byte) (o : OrderRecord) (p : Panto) (s : State), s.held = false → s.settled →
    parseFrame f = some (.order o) → s.hears t f → s.takes o →
    (o.kind = .isolate → s.names o.arg p → ∃ u, exec (.isolate t f) s = .next u ∧
      (u.drive p).isolate = true ∧ (u.drive p.other).isolate = (s.drive p.other).isolate ∧
      (u.drive p).engaged = false ∧ (u.drive p).lockout = (s.drive p).lockout ∧
      (u.drive p.other).lockout = (s.drive p.other).lockout ∧
      ((s.drive p).engaged = true → (u.drive p).outcome = .lowered) ∧
      ((s.drive p).state.up = true → (s.drive p).restClosed = false → s.attentionOk → s.detectedRight →
        (u.drive p).state = .fallingNormal) ∧
      u.port.lastOutcome = some .done) ∧
    (o.kind = .restore → s.names o.arg p → ∃ u, exec (.restore t f) s = .next u ∧
      (u.drive p).isolate = false ∧ (u.drive p.other).isolate = (s.drive p.other).isolate ∧
      (u.drive p).lockout = (s.drive p).lockout ∧ (u.drive p.other).lockout = (s.drive p.other).lockout ∧
      u.port.lastOutcome = some .done) ∧
    (o.kind = .unlockEnable → exec (.unlockEnable t f) s = .next (portDue
      (((s.afterFrame t f).withUnlock (some (max s.now t + 10 * Config.second))).withPort
        { (s.afterFrame t f).port with lastOrder := some .unlockEnable, lastOutcome := some .done }) true)) ∧
    (o.kind = .unlock → s.names o.arg p → s.unlock.isSome = true → (s.drive p).state = .down →
      (s.drive p).write = none → ∃ u, exec (.unlock t f) s = .next u ∧
      (u.drive p).lockout = false ∧ (u.drive p).write = some .clear ∧ (u.drive p).cell = (s.drive p).cell ∧
      (u.drive p).isolate = (s.drive p).isolate ∧ (u.drive p.other).lockout = (s.drive p.other).lockout ∧
      (u.drive p.other).isolate = (s.drive p.other).isolate ∧ u.unlock = none ∧ u.port.lastOutcome = some .done)

/-- CLEAR_ARCS clears the arc records, the ring and the second count, and the saturation flag, and evaluates the level
with ICE_HEAVY (R114, R122, R136). An accepted RESTART (R178, R179) puts every block to its restart values: LISTEN for 1
s; view, admission unit and line sense as at power-on; phase UNSET with the request OPEN; arc records, ring and second
count cleared (R116); outputs OFF; encoder histories empty and quiet (R29); no frame pending, no cadence, no abandon run,
no order recorded (R170); no mark, and no cause latched but SELECTOR_FAIL for an invalid reading (R153). Angles, lockouts,
cells, mean windows, ice index, level, saturation and weather (R138), configuration, inputs and the line measures stay. -/
def Obligations.ClearArcsAndRestart : Prop :=
  ∀ (t : Time) (f : List Byte) (o : OrderRecord) (s : State), s.held = false → s.settled →
    parseFrame f = some (.order o) → s.hears t f → s.takes o →
    (o.kind = .clearArcs → ∃ u, exec (.clearArcs t f) s = .next u ∧
      (∀ p, (u.arc.channel p).arcs = 0 ∧ (u.arc.channel p).longArcs = 0 ∧ (u.arc.channel p).firstArc = none ∧
        (u.arc.channel p).firstLong = none) ∧
      u.arc.second = 0 ∧ u.arc.ring = List.replicate 10 0 ∧ u.heat.saturated = false ∧ u.heat.index = s.heat.index ∧
      u.heat.level = iceLevelAfter s.heat.level false s.heat.index ∧
      (u.settled →
        (u.heat.level = .heavy → CauseSet.has u.att.latched .iceHeavy = true) ∧
        (u.heat.level ≠ .heavy → CauseSet.has u.att.latched .iceHeavy =
          (decide (s.heat.level ≠ .heavy) && CauseSet.has s.att.latched .iceHeavy))) ∧
      u.port.lastOutcome = some .done) ∧
    (o.kind = .restart → s.mayRestart → ∃ u, exec (.restart t f) s = .next u ∧ u.now = max s.now t ∧
      u.start.mode = .listen ∧ u.start.listen = some (u.now + 1 * Config.second) ∧ u.start.adopt = none ∧
      u.start.configState = s.start.configState ∧ u.start.config = s.start.config ∧ u.start.pos1 = s.start.pos1 ∧
      u.start.pos2 = s.start.pos2 ∧ u.sense = .initial ∧ u.view = .initial u.now ∧ u.adm = .initial ∧
      u.chg.phase = .unset ∧ u.chg.close = false ∧ u.chg.target = none ∧ u.chg.motor = .stopped ∧
      u.chg.transit = none ∧ u.chg.pause = none ∧ u.chg.disagree = none ∧ u.chg.lineDead = false ∧
      u.chg.closed = s.chg.closed ∧ u.chg.endAC = s.chg.endAC ∧ u.chg.endDC = s.chg.endDC ∧
      u.chg.selector = .ofReading s.chg.endAC s.chg.endDC ∧ u.unlock = none ∧
      u.arc.second = 0 ∧ u.arc.ring = List.replicate 10 0 ∧ u.arc.assess = s.arc.assess ∧
      (∀ p, (u.arc.channel p).arcs = 0 ∧ (u.arc.channel p).longArcs = 0 ∧ (u.arc.channel p).firstArc = none ∧
        (u.arc.channel p).firstLong = none ∧ (u.arc.channel p).window = (s.arc.channel p).window ∧
        (u.arc.channel p).mean = (s.arc.channel p).mean) ∧
      u.heat.index = s.heat.index ∧ u.heat.level = s.heat.level ∧ u.heat.saturated = s.heat.saturated ∧
      u.heat.temperature = s.heat.temperature ∧ u.heat.humidity = s.heat.humidity ∧
      u.port = { (s.afterFrame t f).port with
        frame := .none, byChange := false, snapshot := none, outdated := false, attempts := 0, abandonRun := 0
        cadence := .stopped, spacing := none, lastOrder := none, lastOutcome := none } ∧
      u.att.pending = 0 ∧ u.att.met = 0 ∧
      (∀ p, (u.drive p).angle = (s.drive p).angle ∧ (u.drive p).lockout = (s.drive p).lockout ∧
        (u.drive p).cell = (s.drive p).cell ∧ (u.drive p).write = (s.drive p).write ∧ (u.drive p).isolate = false ∧
        (u.drive p).outcome = .none ∧ (u.drive p).state = (s.drive p).state ∧ (u.drive p).encHistory = [] ∧
        (u.drive p).quietTimer = none ∧ (u.drive p).target = pressureTarget s.start.config 0 0) ∧
      (u.settled → u.heat.claim = 0 ∧ u.heat.grant = 0 ∧
        (∀ l, (u.heat.load l).output = .off ∧ (u.heat.load l).failed = false) ∧
        ∀ c, CauseSet.has u.att.latched c = true ↔ c = .selectorFail ∧ s.chg.endAC = s.chg.endDC))

/-! ## Commands of the roof line port and start-up control -/

/-- The content of a status frame is each field as its block holds it, and for a pantograph that is not fitted NONE, DOWN,
no tag, position 0, clear flags, outcome NONE and no arcs (R161, 9.4). A change of a pantograph's state, of the phase, of
the confirmed class or of the level makes a status frame due, or marks the snapshot of the pending one outdated (R160,
R161). The cadence makes a status frame due (R160), the spacing timer only runs out, and an attempt begins exactly where
R162 lets it: on a line that has been idle for 48 bit times, or 48 + 16 × address of them for a retry, by the measure the
port holds (R154); it takes or keeps its snapshot (R161), a first attempt restarts cadence and spacing (R160), and its
start bit makes the line active. The command names the moment of the attempt as some bit times after another moment, and
its word is taken only there (entry 14, the model's choice); a timer that does not run has no expiry (entry 2). -/
def Obligations.StatusFramesFallDueAndStart : Prop :=
  (∀ (s : State) (byChange : Bool), portDue s byChange =
    if s.start.mode = .listen then s
    else if s.port.frame = .none then
      s.withPort { s.port with frame := .waiting, byChange := byChange, attempts := 0, snapshot := none, outdated := false }
    else
      s.withPort { s.port with
        byChange := s.port.byChange && byChange, outdated := s.port.outdated || s.port.snapshot.isSome }) ∧
  (∀ (s : State) (r : StatusRecord), r = statusOfStation s →
    r.startMode = s.start.mode ∧ r.configState = s.start.configState ∧ r.phase = s.chg.phase ∧
    r.confirmed = s.sense.confirmed ∧ r.selector = s.chg.selector ∧ r.close = s.chg.close ∧ r.closed = s.chg.closed ∧
    r.claim = s.heat.claim ∧ r.grant = s.heat.grant ∧ r.iceLevel = s.heat.level ∧ r.saturated = s.heat.saturated ∧
    r.level = s.att.level ∧ r.leading = s.att.leading ∧ r.detected = s.att.detected ∧
    r.lastOrder = s.port.lastOrder ∧ r.lastOutcome = s.port.lastOutcome ∧
    ∀ p, r.panto p =
      if (s.drive p).fitted = true then
        { headKind := (s.drive p).headKind, state := (s.drive p).state, tag := (s.drive p).tag
          position := s.start.position p, isolate := (s.drive p).isolate, lockout := (s.drive p).lockout
          capture := (s.drive p).capture, outcome := (s.drive p).outcome, arcs := (s.arc.channel p).arcs }
      else
        { headKind := .none, state := .down, tag := none, position := 0, isolate := false, lockout := false
          capture := false, outcome := .none, arcs := 0 }) ∧
  (∀ (c : Instr) (s u : State), s.settled → exec c s = .next u → u.settled → s.start.mode ≠ .listen →
    u.start.mode ≠ .listen →
    (∃ p, (u.drive p).state ≠ (s.drive p).state) ∨ u.chg.phase ≠ s.chg.phase ∨ u.sense.confirmed ≠ s.sense.confirmed ∨
      u.att.level ≠ s.att.level →
    u.port.frame ≠ .none ∧ (u.port.snapshot = none ∨ u.port.outdated = true) ∧
      (s.port.frame = .none → u.port.frame = .waiting ∧ u.port.byChange = true ∧ u.port.attempts = 0)) ∧
  (∀ s : State, s.held = false → s.settled →
    ((∀ d, s.port.cadence ≠ .running d) → exec .cadenceExpiry s = .next s) ∧
    (s.port.spacing = none → exec .spacingExpiry s = .next s) ∧
    (∀ d, s.port.spacing = some d → exec .spacingExpiry s = .next ((s.advance d).withPort { s.port with spacing := none })) ∧
    (∀ d, s.port.cadence = .running d → s.start.mode = .listen →
      exec .cadenceExpiry s = .next ((s.advance d).withPort { s.port with cadence := .expired })) ∧
    (∀ d, s.port.cadence = .running d → s.start.mode ≠ .listen →
      exec .cadenceExpiry s = .next ((s.advance d).withPort
        (if s.port.frame = .none then
          { s.port with cadence := .expired, frame := .waiting, byChange := false, attempts := 0, snapshot := none,
                        outdated := false }
        else
          { s.port with cadence := .expired, byChange := false,
                        outdated := s.port.outdated || s.port.snapshot.isSome })))) ∧
  ∀ (t m : Time) (bits : Nat) (s : State), m = t + 2 * bits → s.held = false → s.settled →
    (s.attemptAllowed m →
      ∃ u, exec (.attemptStart t bits) s = .next u ∧ u = (s.advance m).withPort u.port ∧ u.port.frame = .sending ∧
        u.port.outdated = false ∧ u.port.attempts = s.port.attempts ∧ u.port.activeFrom = some (max s.now m) ∧
        u.port.idleFrom = s.port.idleFrom ∧
        (s.port.snapshot = none ∨ s.port.outdated = true →
          u.port.snapshot = some { record := statusOfStation (s.advance m), taken := max s.now m }) ∧
        (∀ x, s.port.snapshot = some x → s.port.outdated = false → u.port.snapshot = some x) ∧
        (s.port.attempts = 0 → u.port.cadence = .running (max s.now m + 20 * Config.ms) ∧
          u.port.spacing = some (max s.now m + 5 * Config.ms)) ∧
        (s.port.attempts ≠ 0 → u.port.cadence = s.port.cadence ∧ u.port.spacing = s.port.spacing)) ∧
    (¬s.attemptAllowed m → exec (.attemptStart t bits) s = .next (s.advance m))

/-- A collision sends the frame back to WAITING with one attempt more, and the eighth abandons it, whatever the cadence
(entry 43, the model's choice); three frames abandoned in a row latch LINE_FAULT (R162, R163, R165). The port stops at the
bit: it goes on receiving the frame whose bytes before it are those it sent (R158, entry 34), and its line measures count
from the bit it read driven, or from the last bit it drove where the line read idle (R154, read as entry 14 has it). A
success ends the frame, with the line measures at its last driven bit, resets the abandon run, sets the met mark of
LINE_FAULT and counts for the bid of a bidder that its snapshot showed in BIDDING (R65, R164). -/
def Obligations.CollisionsAndSuccesses : Prop :=
  (∀ (t : Time) (bit : Nat) (s : State), s.held = false → s.settled →
    (s.port.frame ≠ .sending → exec (.collision t bit) s = .next (s.advance t)) ∧
    (s.port.frame = .sending → ∃ u, exec (.collision t bit) s = .next u ∧ u.now = max s.now t ∧
      u.port.reception = (if bit % 10 = 0 ∨ bit % 10 = 9 then none else some (s.sentFrame.take (bit / 10))) ∧
      ((frameBits s.sentFrame)[bit]? ≠ some false → u.port.idleFrom = u.now ∧ u.port.activeFrom = s.port.activeFrom ∧
        u.port.hold = s.port.hold) ∧
      ((frameBits s.sentFrame)[bit]? = some false → bit ≠ 0 →
        u.port.idleFrom = u.now - 2 * idleRun ((frameBits s.sentFrame).take bit) ∧
        u.port.activeFrom = s.port.activeFrom ∧ u.port.hold = s.port.hold) ∧
      ((frameBits s.sentFrame)[bit]? = some false → bit = 0 →
        u.port.idleFrom = s.port.idleFrom ∧ u.port.activeFrom = none ∧ u.port.hold = false) ∧
      (s.port.attempts + 1 < 8 → u.port.frame = .waiting ∧ u.port.attempts = s.port.attempts + 1 ∧
        u.port.snapshot = s.port.snapshot ∧ u.port.outdated = s.port.outdated ∧
        u.port.abandonRun = s.port.abandonRun ∧ u.att = s.att) ∧
      (8 ≤ s.port.attempts + 1 → u.port.abandonRun = min 255 (s.port.abandonRun + 1) ∧ u.port.attempts = 0 ∧
        u.port.snapshot = none ∧
        (3 ≤ s.port.abandonRun + 1 → CauseSet.has u.att.latched .lineFault = true) ∧
        (s.port.abandonRun + 1 < 3 → u.port.frame = .none ∧ u.att = s.att)))) ∧
  ∀ (t : Time) (s : State), s.held = false → s.settled →
    (s.port.frame ≠ .sending → exec (.success t) s = .next (s.advance t)) ∧
    (s.port.frame = .sending → ∃ u, exec (.success t) s = .next u ∧ u.now = max s.now t ∧ u.port.abandonRun = 0 ∧
      u.port.attempts = 0 ∧ u.port.snapshot = none ∧ u.port.frame ≠ .sending ∧
      u.port.idleFrom = u.now - 2 * idleRun (frameBits s.sentFrame) ∧
      u.port.activeFrom = some (s.port.activeFrom.getD (u.now - 20 * s.sentFrame.length)) ∧
      (s.port.outdated = true → s.start.mode ≠ .listen → u.settled → u.port.frame = .waiting) ∧
      (u.settled → CauseSet.has u.att.met .lineFault = true) ∧
      (∀ p y, s.adm.bidder = some p → (s.drive p).state = .bidding → s.port.snapshot = some y →
        s.adm.windowTimer.isSome = true → s.adm.windowEnded = false →
        u.adm.frameCount =
          if (y.record.panto p).state = .bidding ∧ s.adm.bidStart ≤ y.taken then min 2 (s.adm.frameCount + 1)
          else s.adm.frameCount))

/-- A frame that was read to its end is taken exactly where it passes the checks of R155 and R157: its own length, the
CRC, the kind, the length and the sender of its kind, and the code sets (9.4). One that fails them, that broke off, whose
stop bit read driven, or that began on a line the port had not found idle (R155, R166, R170), reaches no block under any
command name (entry 13): it ends the reception and counts for the line measures alone. A line active past 2 ms holds
transmission and latches LINE_FAULT, once for the stretch, until the line is idle again (R166); the port holds both
against its own measures (entries 14 and 29), and a frame that waits for a retry keeps its snapshot when the hold is
released (entry 38, the model's choice). A line that is active still has been driven within the last 48 bit times, and the
idle measure follows (R154, entry 14). LINE_FAULT takes the level to 2, which returns a bidder with WITHHELD (R72; one
that has crept is lowered, entry 37). -/
def Obligations.DamagedFramesAndAStuckLine : Prop :=
  (∀ f : List Byte, (parseFrame f).isSome = true ↔ framePasses f) ∧
  (∀ (t : Time) (f : List Byte) (c : Instr) (s : State), s.held = false → s.settled → c ∈ frameCommands t f →
    parseFrame f = none ∨ ¬s.hears t f → exec c s = .next (s.afterFrame t f)) ∧
  (∀ (t : Time) (f : List Byte) (s : State), s.held = false → s.settled →
    exec (.frameDiscarded t f .brokenOff) s = .next (s.afterFrame t f) ∧
    exec (.frameDiscarded t f .stopDriven) s =
      .next ((s.afterFrame t f).withPort { (s.afterFrame t f).port with idleFrom := max s.now t })) ∧
  (∀ (t : Time) (f : List Byte) (s u : State), u = s.afterFrame t f →
    u.now = max s.now t ∧ u.port.idleFrom = u.now - 2 * idleRun (frameBits f) ∧
      u.port.activeFrom = some (s.port.activeFrom.getD (u.now - 20 * f.length)) ∧ u.port.reception = none ∧
      u = (s.advance t).withPort { s.port with
        idleFrom := u.port.idleFrom, activeFrom := u.port.activeFrom, reception := none }) ∧
  ∀ (t : Time) (s : State), s.held = false → s.settled →
    (s.port.hold = true ∨ max s.now t < s.port.activeFrom.getD (s.port.idleFrom + 96) + 2 * Config.ms →
      exec (.lineActiveTimeout t) s = .next (s.advance t)) ∧
    (s.port.hold = false → s.port.activeFrom.getD (s.port.idleFrom + 96) + 2 * Config.ms ≤ max s.now t →
      ∃ u, exec (.lineActiveTimeout t) s = .next u ∧ u.port.hold = true ∧ u.now = max s.now t ∧
        CauseSet.has u.att.latched .lineFault = true ∧
        u.port.activeFrom = some (s.port.activeFrom.getD (u.now - 2 * Config.ms)) ∧
        u.port.idleFrom = max s.port.idleFrom (u.now - 95) ∧
        ∀ p, s.engagedServed → s.attentionOk → s.detectedRight → s.adm.bidder = some p →
          (s.drive p).state.inBid = true → s.bidReturned p .withheld u) ∧
    (s.port.activeFrom.isSome = true → s.port.frame ≠ .sending → s.port.idleFrom + 96 ≤ max s.now t →
      exec (.lineIdle t) s = .next ((s.advance t).withPort { s.port with
        hold := false, activeFrom := none, reception := none, idleFrom := max s.now t - 96 })) ∧
    (s.port.activeFrom = none ∨ s.port.frame = .sending ∨ max s.now t < s.port.idleFrom + 96 →
      exec (.lineIdle t) s = .next (s.advance t))

/-- The end of LISTEN waits for the duplicate timer (R173); an unfrozen station then goes to ADOPT for 5 s, or freezes the
block its sole active cab has sent, and a frozen one to RUN (R173, R174, R177), and a status frame falls due by the
cadence (R169). The adopt timer freezes the defaults. Freezing computes the positions under the frozen car length (R172),
and every field of a block comes out at its value, or at the end of its range that it lies beyond (R175). A timer that
does not run has no expiry (entry 2). -/
def Obligations.ListenAdoptAndFreezing : Prop :=
  (∀ (s w : State) (d : Time), s.held = false → s.settled → s.start.listen = some d → s.start.mode = .listen →
    w = (s.advance d).withStart { s.start with listen := none } →
    (s.view.dupTimer.isSome = true → exec .listenExpiry s = .next w) ∧
    (s.view.dupTimer = none → ∃ u, exec .listenExpiry s = .next u ∧ Kept w u ∧
      (s.port.frame = .none → u.port.frame = .waiting ∧ u.port.byChange = false ∧ u.port.snapshot = none ∧
        u.port.attempts = 0) ∧
      (s.start.configState ≠ .unfrozen → u.start = { w.start with mode := .run }) ∧
      (s.start.configState = .unfrozen → soleBlock s.view = none →
        u.start = { w.start with mode := .adopt, adopt := some (u.now + 5 * Config.second) } ∧ u.att = s.att) ∧
      (∀ b, s.start.configState = .unfrozen → soleBlock s.view = some b →
        u.start.mode = .run ∧ u.start.configState = .frozenConsist ∧ u.start.config = b.clamped ∧
        ∀ p, u.start.position p = s.positionUnder p b.clamped.carLength))) ∧
  (∀ (s : State) (d : Time), s.held = false → s.settled → s.start.adopt = some d →
    ∃ u, exec .adoptTimeout s = .next u ∧ Kept (s.advance d) u ∧ u.start.mode = .run ∧ u.start.adopt = none ∧
      u.start.configState = .frozenDefault ∧ u.start.config = .default ∧
      ∀ p, u.start.position p = s.positionUnder p 262) ∧
  (∀ s : State, s.held = false → s.settled →
    (s.start.listen = none → exec .listenExpiry s = .next s) ∧
      (s.start.adopt = none → exec .adoptTimeout s = .next s)) ∧
  ∀ b : Settings,
    b.clamped.inRange ∧
    b.clamped.budget = min 4000 b.budget ∧
    b.clamped.carLength = max 180 (min 300 b.carLength) ∧
    b.clamped.spacingBase = min 300 b.spacingBase ∧
    b.clamped.spacingGain = min 100 b.spacingGain ∧
    (∀ x, b.clamped.raiseLimit x = max 1 (min 6 (b.raiseLimit x))) ∧
    b.clamped.basePress = max 300 (min 500 b.basePress) ∧
    b.clamped.aero = min 100 b.aero ∧
    (max 500 (min 3700 b.windowLow) < max 500 (min 3700 b.windowHigh) →
      b.clamped.windowLow = max 500 (min 3700 b.windowLow) ∧ b.clamped.windowHigh = max 500 (min 3700 b.windowHigh)) ∧
    (¬max 500 (min 3700 b.windowLow) < max 500 (min 3700 b.windowHigh) →
      b.clamped.windowLow = 1400 ∧ b.clamped.windowHigh = 3400) ∧
    b.clamped.preheat = min 120 b.preheat ∧
    (∀ c, CauseSet.has b.clamped.enables c = true ↔
      CauseSet.has b.enables c = true ∧
        c.number ∈ [6, 7, 9, 10, 12, 13, 14, 17, 18, 19, 20, 21, 22]) ∧
    b.clamped.enables.getLsbD 23 = false
end

