-- ==== Sys2Proof/Laws/Bids.lean ====
section
/-! SUPPORT. The grounds of a bid (R72, R73): when a bid stands, what the check of its grounds does, and what the invariant
of the engaged pantographs says of a bidder. -/

namespace Sys2Proof.Machine

/-- A bid stands, its selector serving it, exactly where neither ground of a return does (R72, R73). -/
theorem bidStands_iff (s : State) (p : Panto) :
    s.bidStands p ∧ s.chg.selector.servesTag (s.drive p).tag = true ↔ withholds s p = false ∧ 2 ≤ s.att.level := by
  unfold State.bidStands withholds PeerView.staleMark PeerView.conflictMark
  have hp : s.chg.phase.allowsBids = true ↔ s.chg.phase = .steady ∨ s.chg.phase = .ready ∨ s.chg.phase = .confirming := by
    cases s.chg.phase <;> decide
  simp only [← hp]
  generalize s.view.mode = m
  by_cases hd : s.view.demand = .raise <;> by_cases hx : s.view.heldValues.system = (s.drive p).tag <;>
    by_cases hl : s.att.level = 2 <;> cases s.chg.phase.allowsBids <;> by_cases hb : (s.drive p).state = .bidding <;>
    cases s.chg.selector.servesTag (s.drive p).tag <;> cases m <;> simp [hd, hx, hl, hb] <;> omega

/-- What the check of a bid's grounds does (R72, R73): PROTECT at level 0 and 1, WITHHELD on a ground, else nothing. -/
theorem admCheck_bidder (s : State) (p : Panto) (h : s.adm.bidder = some p) :
    admCheck s = if s.att.level ≤ 1 then admReturn s p .protect else if withholds s p then admReturn s p .withheld
      else .none s := by
  simp [admCheck, h]

/-- What a return of a pantograph in BIDDING or PREHEAT leaves of the admission unit, and what it sends (R71 to R74). -/
theorem admReturn_inBid (s : State) (p : Panto) (o : POutcome) (h : (s.drive p).state.inBid = true) :
    (admReturn s p o).now = [.toDown p o] ∧ (admReturn s p o).later = [] ∧
      (admReturn s p o).st.adm.bidder = none ∧ (admReturn s p o).st.adm.openBid = none ∧
      (admReturn s p o).st.adm.windowTimer = none ∧ (admReturn s p o).st.adm.bidTimer = none ∧
      (admReturn s p o).st.adm.preheatTimer = none ∧
      (admReturn s p o).st.adm.holdoff = some (s.now + Config.holdoffTime) ∧
      (admReturn s p o).st = s.withAdm (admReturn s p o).st.adm := by
  unfold admReturn
  rw [if_pos h]
  exact ⟨rfl, rfl, rfl, rfl, rfl, rfl, rfl, rfl, rfl⟩

/-- Under the invariant of the engaged, a pantograph in BIDDING or PREHEAT is the bidder, its bid stands and the selector
serves it. -/
theorem bid_of_engagedServed (s : State) (p : Panto) (h : s.engagedServed) (hp : (s.drive p).state.inBid = true) :
    s.adm.bidder = some p ∧ s.bidStands p ∧ s.chg.selector.servesTag (s.drive p).tag = true := by
  have he : (s.drive p).engaged = true := by simp [Drive.engaged, hp]
  obtain ⟨h1, x, hx, hs⟩ := h p he
  exact ⟨(h1 hp).1, (h1 hp).2, by simp [Selector.servesTag, Selector.serves, hx, hs]⟩

end Sys2Proof.Machine
end

