-- ==== Sys2Proof/Laws/State.lean ====
section
/-! SUPPORT. One lemma per field per update of the state, each true by its definition. -/

namespace Sys2Proof.Machine

/-! ### withNow -/

@[simp] theorem State.withNow_now (s : State) (x : Time) : (s.withNow x).now = x := rfl
@[simp] theorem State.withNow_held (s : State) (x : Time) : (s.withNow x).held = s.held := rfl
@[simp] theorem State.withNow_drive1 (s : State) (x : Time) : (s.withNow x).drive1 = s.drive1 := rfl
@[simp] theorem State.withNow_drive2 (s : State) (x : Time) : (s.withNow x).drive2 = s.drive2 := rfl
@[simp] theorem State.withNow_unlock (s : State) (x : Time) : (s.withNow x).unlock = s.unlock := rfl
@[simp] theorem State.withNow_sense (s : State) (x : Time) : (s.withNow x).sense = s.sense := rfl
@[simp] theorem State.withNow_view (s : State) (x : Time) : (s.withNow x).view = s.view := rfl
@[simp] theorem State.withNow_adm (s : State) (x : Time) : (s.withNow x).adm = s.adm := rfl
@[simp] theorem State.withNow_chg (s : State) (x : Time) : (s.withNow x).chg = s.chg := rfl
@[simp] theorem State.withNow_arc (s : State) (x : Time) : (s.withNow x).arc = s.arc := rfl
@[simp] theorem State.withNow_heat (s : State) (x : Time) : (s.withNow x).heat = s.heat := rfl
@[simp] theorem State.withNow_att (s : State) (x : Time) : (s.withNow x).att = s.att := rfl
@[simp] theorem State.withNow_port (s : State) (x : Time) : (s.withNow x).port = s.port := rfl
@[simp] theorem State.withNow_start (s : State) (x : Time) : (s.withNow x).start = s.start := rfl
@[simp] theorem State.withNow_free (s : State) (x : Time) : (s.withNow x).free = s.free := rfl
@[simp] theorem State.withNow_inFlight (s : State) (x : Time) : (s.withNow x).inFlight = s.inFlight := rfl
@[simp] theorem State.withNow_pending (s : State) (x : Time) : (s.withNow x).pending = s.pending := rfl
@[simp] theorem State.withNow_drive (s : State) (x : Time) (p : Panto) : (s.withNow x).drive p = s.drive p := by
  cases p <;> rfl

/-! ### withHeld -/

@[simp] theorem State.withHeld_now (s : State) (x : Bool) : (s.withHeld x).now = s.now := rfl
@[simp] theorem State.withHeld_held (s : State) (x : Bool) : (s.withHeld x).held = x := rfl
@[simp] theorem State.withHeld_drive1 (s : State) (x : Bool) : (s.withHeld x).drive1 = s.drive1 := rfl
@[simp] theorem State.withHeld_drive2 (s : State) (x : Bool) : (s.withHeld x).drive2 = s.drive2 := rfl
@[simp] theorem State.withHeld_unlock (s : State) (x : Bool) : (s.withHeld x).unlock = s.unlock := rfl
@[simp] theorem State.withHeld_sense (s : State) (x : Bool) : (s.withHeld x).sense = s.sense := rfl
@[simp] theorem State.withHeld_view (s : State) (x : Bool) : (s.withHeld x).view = s.view := rfl
@[simp] theorem State.withHeld_adm (s : State) (x : Bool) : (s.withHeld x).adm = s.adm := rfl
@[simp] theorem State.withHeld_chg (s : State) (x : Bool) : (s.withHeld x).chg = s.chg := rfl
@[simp] theorem State.withHeld_arc (s : State) (x : Bool) : (s.withHeld x).arc = s.arc := rfl
@[simp] theorem State.withHeld_heat (s : State) (x : Bool) : (s.withHeld x).heat = s.heat := rfl
@[simp] theorem State.withHeld_att (s : State) (x : Bool) : (s.withHeld x).att = s.att := rfl
@[simp] theorem State.withHeld_port (s : State) (x : Bool) : (s.withHeld x).port = s.port := rfl
@[simp] theorem State.withHeld_start (s : State) (x : Bool) : (s.withHeld x).start = s.start := rfl
@[simp] theorem State.withHeld_free (s : State) (x : Bool) : (s.withHeld x).free = s.free := rfl
@[simp] theorem State.withHeld_inFlight (s : State) (x : Bool) : (s.withHeld x).inFlight = s.inFlight := rfl
@[simp] theorem State.withHeld_pending (s : State) (x : Bool) : (s.withHeld x).pending = s.pending := rfl
@[simp] theorem State.withHeld_drive (s : State) (x : Bool) (p : Panto) : (s.withHeld x).drive p = s.drive p := by
  cases p <;> rfl

/-! ### withUnlock -/

@[simp] theorem State.withUnlock_now (s : State) (x : Timer) : (s.withUnlock x).now = s.now := rfl
@[simp] theorem State.withUnlock_held (s : State) (x : Timer) : (s.withUnlock x).held = s.held := rfl
@[simp] theorem State.withUnlock_drive1 (s : State) (x : Timer) : (s.withUnlock x).drive1 = s.drive1 := rfl
@[simp] theorem State.withUnlock_drive2 (s : State) (x : Timer) : (s.withUnlock x).drive2 = s.drive2 := rfl
@[simp] theorem State.withUnlock_unlock (s : State) (x : Timer) : (s.withUnlock x).unlock = x := rfl
@[simp] theorem State.withUnlock_sense (s : State) (x : Timer) : (s.withUnlock x).sense = s.sense := rfl
@[simp] theorem State.withUnlock_view (s : State) (x : Timer) : (s.withUnlock x).view = s.view := rfl
@[simp] theorem State.withUnlock_adm (s : State) (x : Timer) : (s.withUnlock x).adm = s.adm := rfl
@[simp] theorem State.withUnlock_chg (s : State) (x : Timer) : (s.withUnlock x).chg = s.chg := rfl
@[simp] theorem State.withUnlock_arc (s : State) (x : Timer) : (s.withUnlock x).arc = s.arc := rfl
@[simp] theorem State.withUnlock_heat (s : State) (x : Timer) : (s.withUnlock x).heat = s.heat := rfl
@[simp] theorem State.withUnlock_att (s : State) (x : Timer) : (s.withUnlock x).att = s.att := rfl
@[simp] theorem State.withUnlock_port (s : State) (x : Timer) : (s.withUnlock x).port = s.port := rfl
@[simp] theorem State.withUnlock_start (s : State) (x : Timer) : (s.withUnlock x).start = s.start := rfl
@[simp] theorem State.withUnlock_free (s : State) (x : Timer) : (s.withUnlock x).free = s.free := rfl
@[simp] theorem State.withUnlock_inFlight (s : State) (x : Timer) : (s.withUnlock x).inFlight = s.inFlight := rfl
@[simp] theorem State.withUnlock_pending (s : State) (x : Timer) : (s.withUnlock x).pending = s.pending := rfl
@[simp] theorem State.withUnlock_drive (s : State) (x : Timer) (p : Panto) : (s.withUnlock x).drive p = s.drive p := by
  cases p <;> rfl

/-! ### withSense -/

@[simp] theorem State.withSense_now (s : State) (x : Sense) : (s.withSense x).now = s.now := rfl
@[simp] theorem State.withSense_held (s : State) (x : Sense) : (s.withSense x).held = s.held := rfl
@[simp] theorem State.withSense_drive1 (s : State) (x : Sense) : (s.withSense x).drive1 = s.drive1 := rfl
@[simp] theorem State.withSense_drive2 (s : State) (x : Sense) : (s.withSense x).drive2 = s.drive2 := rfl
@[simp] theorem State.withSense_unlock (s : State) (x : Sense) : (s.withSense x).unlock = s.unlock := rfl
@[simp] theorem State.withSense_sense (s : State) (x : Sense) : (s.withSense x).sense = x := rfl
@[simp] theorem State.withSense_view (s : State) (x : Sense) : (s.withSense x).view = s.view := rfl
@[simp] theorem State.withSense_adm (s : State) (x : Sense) : (s.withSense x).adm = s.adm := rfl
@[simp] theorem State.withSense_chg (s : State) (x : Sense) : (s.withSense x).chg = s.chg := rfl
@[simp] theorem State.withSense_arc (s : State) (x : Sense) : (s.withSense x).arc = s.arc := rfl
@[simp] theorem State.withSense_heat (s : State) (x : Sense) : (s.withSense x).heat = s.heat := rfl
@[simp] theorem State.withSense_att (s : State) (x : Sense) : (s.withSense x).att = s.att := rfl
@[simp] theorem State.withSense_port (s : State) (x : Sense) : (s.withSense x).port = s.port := rfl
@[simp] theorem State.withSense_start (s : State) (x : Sense) : (s.withSense x).start = s.start := rfl
@[simp] theorem State.withSense_free (s : State) (x : Sense) : (s.withSense x).free = s.free := rfl
@[simp] theorem State.withSense_inFlight (s : State) (x : Sense) : (s.withSense x).inFlight = s.inFlight := rfl
@[simp] theorem State.withSense_pending (s : State) (x : Sense) : (s.withSense x).pending = s.pending := rfl
@[simp] theorem State.withSense_drive (s : State) (x : Sense) (p : Panto) : (s.withSense x).drive p = s.drive p := by
  cases p <;> rfl

/-! ### withView -/

@[simp] theorem State.withView_now (s : State) (x : PeerView) : (s.withView x).now = s.now := rfl
@[simp] theorem State.withView_held (s : State) (x : PeerView) : (s.withView x).held = s.held := rfl
@[simp] theorem State.withView_drive1 (s : State) (x : PeerView) : (s.withView x).drive1 = s.drive1 := rfl
@[simp] theorem State.withView_drive2 (s : State) (x : PeerView) : (s.withView x).drive2 = s.drive2 := rfl
@[simp] theorem State.withView_unlock (s : State) (x : PeerView) : (s.withView x).unlock = s.unlock := rfl
@[simp] theorem State.withView_sense (s : State) (x : PeerView) : (s.withView x).sense = s.sense := rfl
@[simp] theorem State.withView_view (s : State) (x : PeerView) : (s.withView x).view = x := rfl
@[simp] theorem State.withView_adm (s : State) (x : PeerView) : (s.withView x).adm = s.adm := rfl
@[simp] theorem State.withView_chg (s : State) (x : PeerView) : (s.withView x).chg = s.chg := rfl
@[simp] theorem State.withView_arc (s : State) (x : PeerView) : (s.withView x).arc = s.arc := rfl
@[simp] theorem State.withView_heat (s : State) (x : PeerView) : (s.withView x).heat = s.heat := rfl
@[simp] theorem State.withView_att (s : State) (x : PeerView) : (s.withView x).att = s.att := rfl
@[simp] theorem State.withView_port (s : State) (x : PeerView) : (s.withView x).port = s.port := rfl
@[simp] theorem State.withView_start (s : State) (x : PeerView) : (s.withView x).start = s.start := rfl
@[simp] theorem State.withView_free (s : State) (x : PeerView) : (s.withView x).free = s.free := rfl
@[simp] theorem State.withView_inFlight (s : State) (x : PeerView) : (s.withView x).inFlight = s.inFlight := rfl
@[simp] theorem State.withView_pending (s : State) (x : PeerView) : (s.withView x).pending = s.pending := rfl
@[simp] theorem State.withView_drive (s : State) (x : PeerView) (p : Panto) : (s.withView x).drive p = s.drive p := by
  cases p <;> rfl

/-! ### withAdm -/

@[simp] theorem State.withAdm_now (s : State) (x : Admission) : (s.withAdm x).now = s.now := rfl
@[simp] theorem State.withAdm_held (s : State) (x : Admission) : (s.withAdm x).held = s.held := rfl
@[simp] theorem State.withAdm_drive1 (s : State) (x : Admission) : (s.withAdm x).drive1 = s.drive1 := rfl
@[simp] theorem State.withAdm_drive2 (s : State) (x : Admission) : (s.withAdm x).drive2 = s.drive2 := rfl
@[simp] theorem State.withAdm_unlock (s : State) (x : Admission) : (s.withAdm x).unlock = s.unlock := rfl
@[simp] theorem State.withAdm_sense (s : State) (x : Admission) : (s.withAdm x).sense = s.sense := rfl
@[simp] theorem State.withAdm_view (s : State) (x : Admission) : (s.withAdm x).view = s.view := rfl
@[simp] theorem State.withAdm_adm (s : State) (x : Admission) : (s.withAdm x).adm = x := rfl
@[simp] theorem State.withAdm_chg (s : State) (x : Admission) : (s.withAdm x).chg = s.chg := rfl
@[simp] theorem State.withAdm_arc (s : State) (x : Admission) : (s.withAdm x).arc = s.arc := rfl
@[simp] theorem State.withAdm_heat (s : State) (x : Admission) : (s.withAdm x).heat = s.heat := rfl
@[simp] theorem State.withAdm_att (s : State) (x : Admission) : (s.withAdm x).att = s.att := rfl
@[simp] theorem State.withAdm_port (s : State) (x : Admission) : (s.withAdm x).port = s.port := rfl
@[simp] theorem State.withAdm_start (s : State) (x : Admission) : (s.withAdm x).start = s.start := rfl
@[simp] theorem State.withAdm_free (s : State) (x : Admission) : (s.withAdm x).free = s.free := rfl
@[simp] theorem State.withAdm_inFlight (s : State) (x : Admission) : (s.withAdm x).inFlight = s.inFlight := rfl
@[simp] theorem State.withAdm_pending (s : State) (x : Admission) : (s.withAdm x).pending = s.pending := rfl
@[simp] theorem State.withAdm_drive (s : State) (x : Admission) (p : Panto) : (s.withAdm x).drive p = s.drive p := by
  cases p <;> rfl

/-! ### withChg -/

@[simp] theorem State.withChg_now (s : State) (x : Changeover) : (s.withChg x).now = s.now := rfl
@[simp] theorem State.withChg_held (s : State) (x : Changeover) : (s.withChg x).held = s.held := rfl
@[simp] theorem State.withChg_drive1 (s : State) (x : Changeover) : (s.withChg x).drive1 = s.drive1 := rfl
@[simp] theorem State.withChg_drive2 (s : State) (x : Changeover) : (s.withChg x).drive2 = s.drive2 := rfl
@[simp] theorem State.withChg_unlock (s : State) (x : Changeover) : (s.withChg x).unlock = s.unlock := rfl
@[simp] theorem State.withChg_sense (s : State) (x : Changeover) : (s.withChg x).sense = s.sense := rfl
@[simp] theorem State.withChg_view (s : State) (x : Changeover) : (s.withChg x).view = s.view := rfl
@[simp] theorem State.withChg_adm (s : State) (x : Changeover) : (s.withChg x).adm = s.adm := rfl
@[simp] theorem State.withChg_chg (s : State) (x : Changeover) : (s.withChg x).chg = x := rfl
@[simp] theorem State.withChg_arc (s : State) (x : Changeover) : (s.withChg x).arc = s.arc := rfl
@[simp] theorem State.withChg_heat (s : State) (x : Changeover) : (s.withChg x).heat = s.heat := rfl
@[simp] theorem State.withChg_att (s : State) (x : Changeover) : (s.withChg x).att = s.att := rfl
@[simp] theorem State.withChg_port (s : State) (x : Changeover) : (s.withChg x).port = s.port := rfl
@[simp] theorem State.withChg_start (s : State) (x : Changeover) : (s.withChg x).start = s.start := rfl
@[simp] theorem State.withChg_free (s : State) (x : Changeover) : (s.withChg x).free = s.free := rfl
@[simp] theorem State.withChg_inFlight (s : State) (x : Changeover) : (s.withChg x).inFlight = s.inFlight := rfl
@[simp] theorem State.withChg_pending (s : State) (x : Changeover) : (s.withChg x).pending = s.pending := rfl
@[simp] theorem State.withChg_drive (s : State) (x : Changeover) (p : Panto) : (s.withChg x).drive p = s.drive p := by
  cases p <;> rfl

/-! ### withArc -/

@[simp] theorem State.withArc_now (s : State) (x : ArcMonitor) : (s.withArc x).now = s.now := rfl
@[simp] theorem State.withArc_held (s : State) (x : ArcMonitor) : (s.withArc x).held = s.held := rfl
@[simp] theorem State.withArc_drive1 (s : State) (x : ArcMonitor) : (s.withArc x).drive1 = s.drive1 := rfl
@[simp] theorem State.withArc_drive2 (s : State) (x : ArcMonitor) : (s.withArc x).drive2 = s.drive2 := rfl
@[simp] theorem State.withArc_unlock (s : State) (x : ArcMonitor) : (s.withArc x).unlock = s.unlock := rfl
@[simp] theorem State.withArc_sense (s : State) (x : ArcMonitor) : (s.withArc x).sense = s.sense := rfl
@[simp] theorem State.withArc_view (s : State) (x : ArcMonitor) : (s.withArc x).view = s.view := rfl
@[simp] theorem State.withArc_adm (s : State) (x : ArcMonitor) : (s.withArc x).adm = s.adm := rfl
@[simp] theorem State.withArc_chg (s : State) (x : ArcMonitor) : (s.withArc x).chg = s.chg := rfl
@[simp] theorem State.withArc_arc (s : State) (x : ArcMonitor) : (s.withArc x).arc = x := rfl
@[simp] theorem State.withArc_heat (s : State) (x : ArcMonitor) : (s.withArc x).heat = s.heat := rfl
@[simp] theorem State.withArc_att (s : State) (x : ArcMonitor) : (s.withArc x).att = s.att := rfl
@[simp] theorem State.withArc_port (s : State) (x : ArcMonitor) : (s.withArc x).port = s.port := rfl
@[simp] theorem State.withArc_start (s : State) (x : ArcMonitor) : (s.withArc x).start = s.start := rfl
@[simp] theorem State.withArc_free (s : State) (x : ArcMonitor) : (s.withArc x).free = s.free := rfl
@[simp] theorem State.withArc_inFlight (s : State) (x : ArcMonitor) : (s.withArc x).inFlight = s.inFlight := rfl
@[simp] theorem State.withArc_pending (s : State) (x : ArcMonitor) : (s.withArc x).pending = s.pending := rfl
@[simp] theorem State.withArc_drive (s : State) (x : ArcMonitor) (p : Panto) : (s.withArc x).drive p = s.drive p := by
  cases p <;> rfl

/-! ### withHeat -/

@[simp] theorem State.withHeat_now (s : State) (x : Heating) : (s.withHeat x).now = s.now := rfl
@[simp] theorem State.withHeat_held (s : State) (x : Heating) : (s.withHeat x).held = s.held := rfl
@[simp] theorem State.withHeat_drive1 (s : State) (x : Heating) : (s.withHeat x).drive1 = s.drive1 := rfl
@[simp] theorem State.withHeat_drive2 (s : State) (x : Heating) : (s.withHeat x).drive2 = s.drive2 := rfl
@[simp] theorem State.withHeat_unlock (s : State) (x : Heating) : (s.withHeat x).unlock = s.unlock := rfl
@[simp] theorem State.withHeat_sense (s : State) (x : Heating) : (s.withHeat x).sense = s.sense := rfl
@[simp] theorem State.withHeat_view (s : State) (x : Heating) : (s.withHeat x).view = s.view := rfl
@[simp] theorem State.withHeat_adm (s : State) (x : Heating) : (s.withHeat x).adm = s.adm := rfl
@[simp] theorem State.withHeat_chg (s : State) (x : Heating) : (s.withHeat x).chg = s.chg := rfl
@[simp] theorem State.withHeat_arc (s : State) (x : Heating) : (s.withHeat x).arc = s.arc := rfl
@[simp] theorem State.withHeat_heat (s : State) (x : Heating) : (s.withHeat x).heat = x := rfl
@[simp] theorem State.withHeat_att (s : State) (x : Heating) : (s.withHeat x).att = s.att := rfl
@[simp] theorem State.withHeat_port (s : State) (x : Heating) : (s.withHeat x).port = s.port := rfl
@[simp] theorem State.withHeat_start (s : State) (x : Heating) : (s.withHeat x).start = s.start := rfl
@[simp] theorem State.withHeat_free (s : State) (x : Heating) : (s.withHeat x).free = s.free := rfl
@[simp] theorem State.withHeat_inFlight (s : State) (x : Heating) : (s.withHeat x).inFlight = s.inFlight := rfl
@[simp] theorem State.withHeat_pending (s : State) (x : Heating) : (s.withHeat x).pending = s.pending := rfl
@[simp] theorem State.withHeat_drive (s : State) (x : Heating) (p : Panto) : (s.withHeat x).drive p = s.drive p := by
  cases p <;> rfl

/-! ### withAtt -/

@[simp] theorem State.withAtt_now (s : State) (x : Attention) : (s.withAtt x).now = s.now := rfl
@[simp] theorem State.withAtt_held (s : State) (x : Attention) : (s.withAtt x).held = s.held := rfl
@[simp] theorem State.withAtt_drive1 (s : State) (x : Attention) : (s.withAtt x).drive1 = s.drive1 := rfl
@[simp] theorem State.withAtt_drive2 (s : State) (x : Attention) : (s.withAtt x).drive2 = s.drive2 := rfl
@[simp] theorem State.withAtt_unlock (s : State) (x : Attention) : (s.withAtt x).unlock = s.unlock := rfl
@[simp] theorem State.withAtt_sense (s : State) (x : Attention) : (s.withAtt x).sense = s.sense := rfl
@[simp] theorem State.withAtt_view (s : State) (x : Attention) : (s.withAtt x).view = s.view := rfl
@[simp] theorem State.withAtt_adm (s : State) (x : Attention) : (s.withAtt x).adm = s.adm := rfl
@[simp] theorem State.withAtt_chg (s : State) (x : Attention) : (s.withAtt x).chg = s.chg := rfl
@[simp] theorem State.withAtt_arc (s : State) (x : Attention) : (s.withAtt x).arc = s.arc := rfl
@[simp] theorem State.withAtt_heat (s : State) (x : Attention) : (s.withAtt x).heat = s.heat := rfl
@[simp] theorem State.withAtt_att (s : State) (x : Attention) : (s.withAtt x).att = x := rfl
@[simp] theorem State.withAtt_port (s : State) (x : Attention) : (s.withAtt x).port = s.port := rfl
@[simp] theorem State.withAtt_start (s : State) (x : Attention) : (s.withAtt x).start = s.start := rfl
@[simp] theorem State.withAtt_free (s : State) (x : Attention) : (s.withAtt x).free = s.free := rfl
@[simp] theorem State.withAtt_inFlight (s : State) (x : Attention) : (s.withAtt x).inFlight = s.inFlight := rfl
@[simp] theorem State.withAtt_pending (s : State) (x : Attention) : (s.withAtt x).pending = s.pending := rfl
@[simp] theorem State.withAtt_drive (s : State) (x : Attention) (p : Panto) : (s.withAtt x).drive p = s.drive p := by
  cases p <;> rfl

/-! ### withPort -/

@[simp] theorem State.withPort_now (s : State) (x : Port) : (s.withPort x).now = s.now := rfl
@[simp] theorem State.withPort_held (s : State) (x : Port) : (s.withPort x).held = s.held := rfl
@[simp] theorem State.withPort_drive1 (s : State) (x : Port) : (s.withPort x).drive1 = s.drive1 := rfl
@[simp] theorem State.withPort_drive2 (s : State) (x : Port) : (s.withPort x).drive2 = s.drive2 := rfl
@[simp] theorem State.withPort_unlock (s : State) (x : Port) : (s.withPort x).unlock = s.unlock := rfl
@[simp] theorem State.withPort_sense (s : State) (x : Port) : (s.withPort x).sense = s.sense := rfl
@[simp] theorem State.withPort_view (s : State) (x : Port) : (s.withPort x).view = s.view := rfl
@[simp] theorem State.withPort_adm (s : State) (x : Port) : (s.withPort x).adm = s.adm := rfl
@[simp] theorem State.withPort_chg (s : State) (x : Port) : (s.withPort x).chg = s.chg := rfl
@[simp] theorem State.withPort_arc (s : State) (x : Port) : (s.withPort x).arc = s.arc := rfl
@[simp] theorem State.withPort_heat (s : State) (x : Port) : (s.withPort x).heat = s.heat := rfl
@[simp] theorem State.withPort_att (s : State) (x : Port) : (s.withPort x).att = s.att := rfl
@[simp] theorem State.withPort_port (s : State) (x : Port) : (s.withPort x).port = x := rfl
@[simp] theorem State.withPort_start (s : State) (x : Port) : (s.withPort x).start = s.start := rfl
@[simp] theorem State.withPort_free (s : State) (x : Port) : (s.withPort x).free = s.free := rfl
@[simp] theorem State.withPort_inFlight (s : State) (x : Port) : (s.withPort x).inFlight = s.inFlight := rfl
@[simp] theorem State.withPort_pending (s : State) (x : Port) : (s.withPort x).pending = s.pending := rfl
@[simp] theorem State.withPort_drive (s : State) (x : Port) (p : Panto) : (s.withPort x).drive p = s.drive p := by
  cases p <;> rfl

/-! ### withStart -/

@[simp] theorem State.withStart_now (s : State) (x : StartUp) : (s.withStart x).now = s.now := rfl
@[simp] theorem State.withStart_held (s : State) (x : StartUp) : (s.withStart x).held = s.held := rfl
@[simp] theorem State.withStart_drive1 (s : State) (x : StartUp) : (s.withStart x).drive1 = s.drive1 := rfl
@[simp] theorem State.withStart_drive2 (s : State) (x : StartUp) : (s.withStart x).drive2 = s.drive2 := rfl
@[simp] theorem State.withStart_unlock (s : State) (x : StartUp) : (s.withStart x).unlock = s.unlock := rfl
@[simp] theorem State.withStart_sense (s : State) (x : StartUp) : (s.withStart x).sense = s.sense := rfl
@[simp] theorem State.withStart_view (s : State) (x : StartUp) : (s.withStart x).view = s.view := rfl
@[simp] theorem State.withStart_adm (s : State) (x : StartUp) : (s.withStart x).adm = s.adm := rfl
@[simp] theorem State.withStart_chg (s : State) (x : StartUp) : (s.withStart x).chg = s.chg := rfl
@[simp] theorem State.withStart_arc (s : State) (x : StartUp) : (s.withStart x).arc = s.arc := rfl
@[simp] theorem State.withStart_heat (s : State) (x : StartUp) : (s.withStart x).heat = s.heat := rfl
@[simp] theorem State.withStart_att (s : State) (x : StartUp) : (s.withStart x).att = s.att := rfl
@[simp] theorem State.withStart_port (s : State) (x : StartUp) : (s.withStart x).port = s.port := rfl
@[simp] theorem State.withStart_start (s : State) (x : StartUp) : (s.withStart x).start = x := rfl
@[simp] theorem State.withStart_free (s : State) (x : StartUp) : (s.withStart x).free = s.free := rfl
@[simp] theorem State.withStart_inFlight (s : State) (x : StartUp) : (s.withStart x).inFlight = s.inFlight := rfl
@[simp] theorem State.withStart_pending (s : State) (x : StartUp) : (s.withStart x).pending = s.pending := rfl
@[simp] theorem State.withStart_drive (s : State) (x : StartUp) (p : Panto) : (s.withStart x).drive p = s.drive p := by
  cases p <;> rfl

/-! ### withInFlight -/

@[simp] theorem State.withInFlight_now (s : State) (x : List Msg) : (s.withInFlight x).now = s.now := rfl
@[simp] theorem State.withInFlight_held (s : State) (x : List Msg) : (s.withInFlight x).held = s.held := rfl
@[simp] theorem State.withInFlight_drive1 (s : State) (x : List Msg) : (s.withInFlight x).drive1 = s.drive1 := rfl
@[simp] theorem State.withInFlight_drive2 (s : State) (x : List Msg) : (s.withInFlight x).drive2 = s.drive2 := rfl
@[simp] theorem State.withInFlight_unlock (s : State) (x : List Msg) : (s.withInFlight x).unlock = s.unlock := rfl
@[simp] theorem State.withInFlight_sense (s : State) (x : List Msg) : (s.withInFlight x).sense = s.sense := rfl
@[simp] theorem State.withInFlight_view (s : State) (x : List Msg) : (s.withInFlight x).view = s.view := rfl
@[simp] theorem State.withInFlight_adm (s : State) (x : List Msg) : (s.withInFlight x).adm = s.adm := rfl
@[simp] theorem State.withInFlight_chg (s : State) (x : List Msg) : (s.withInFlight x).chg = s.chg := rfl
@[simp] theorem State.withInFlight_arc (s : State) (x : List Msg) : (s.withInFlight x).arc = s.arc := rfl
@[simp] theorem State.withInFlight_heat (s : State) (x : List Msg) : (s.withInFlight x).heat = s.heat := rfl
@[simp] theorem State.withInFlight_att (s : State) (x : List Msg) : (s.withInFlight x).att = s.att := rfl
@[simp] theorem State.withInFlight_port (s : State) (x : List Msg) : (s.withInFlight x).port = s.port := rfl
@[simp] theorem State.withInFlight_start (s : State) (x : List Msg) : (s.withInFlight x).start = s.start := rfl
@[simp] theorem State.withInFlight_free (s : State) (x : List Msg) : (s.withInFlight x).free = s.free := rfl
@[simp] theorem State.withInFlight_inFlight (s : State) (x : List Msg) : (s.withInFlight x).inFlight = x := rfl
@[simp] theorem State.withInFlight_pending (s : State) (x : List Msg) : (s.withInFlight x).pending = s.pending := rfl
@[simp] theorem State.withInFlight_drive (s : State) (x : List Msg) (p : Panto) : (s.withInFlight x).drive p = s.drive p := by
  cases p <;> rfl

/-! ### setDrive -/

@[simp] theorem State.setDrive_now (s : State) (p : Panto) (d : Drive) : (s.setDrive p d).now = s.now := by
  cases p <;> rfl
@[simp] theorem State.setDrive_held (s : State) (p : Panto) (d : Drive) : (s.setDrive p d).held = s.held := by
  cases p <;> rfl
@[simp] theorem State.setDrive_unlock (s : State) (p : Panto) (d : Drive) : (s.setDrive p d).unlock = s.unlock := by
  cases p <;> rfl
@[simp] theorem State.setDrive_sense (s : State) (p : Panto) (d : Drive) : (s.setDrive p d).sense = s.sense := by
  cases p <;> rfl
@[simp] theorem State.setDrive_view (s : State) (p : Panto) (d : Drive) : (s.setDrive p d).view = s.view := by
  cases p <;> rfl
@[simp] theorem State.setDrive_adm (s : State) (p : Panto) (d : Drive) : (s.setDrive p d).adm = s.adm := by
  cases p <;> rfl
@[simp] theorem State.setDrive_chg (s : State) (p : Panto) (d : Drive) : (s.setDrive p d).chg = s.chg := by
  cases p <;> rfl
@[simp] theorem State.setDrive_arc (s : State) (p : Panto) (d : Drive) : (s.setDrive p d).arc = s.arc := by
  cases p <;> rfl
@[simp] theorem State.setDrive_heat (s : State) (p : Panto) (d : Drive) : (s.setDrive p d).heat = s.heat := by
  cases p <;> rfl
@[simp] theorem State.setDrive_att (s : State) (p : Panto) (d : Drive) : (s.setDrive p d).att = s.att := by
  cases p <;> rfl
@[simp] theorem State.setDrive_port (s : State) (p : Panto) (d : Drive) : (s.setDrive p d).port = s.port := by
  cases p <;> rfl
@[simp] theorem State.setDrive_start (s : State) (p : Panto) (d : Drive) : (s.setDrive p d).start = s.start := by
  cases p <;> rfl
@[simp] theorem State.setDrive_free (s : State) (p : Panto) (d : Drive) : (s.setDrive p d).free = s.free := by
  cases p <;> rfl
@[simp] theorem State.setDrive_inFlight (s : State) (p : Panto) (d : Drive) : (s.setDrive p d).inFlight = s.inFlight := by
  cases p <;> rfl
@[simp] theorem State.setDrive_pending (s : State) (p : Panto) (d : Drive) : (s.setDrive p d).pending = s.pending := by
  cases p <;> rfl
@[simp] theorem State.setDrive_drive (s : State) (p : Panto) (d : Drive) : (s.setDrive p d).drive p = d := by
  cases p <;> rfl
@[simp] theorem State.setDrive_other (s : State) (p : Panto) (d : Drive) :
    (s.setDrive p d).drive p.other = s.drive p.other := by
  cases p <;> rfl
theorem State.setDrive_drive_ne (s : State) {p q : Panto} (h : q ≠ p) (d : Drive) :
    (s.setDrive p d).drive q = s.drive q := by
  cases p <;> cases q <;> first | rfl | exact absurd rfl h
@[simp] theorem State.drive_p1 (s : State) : s.drive .p1 = s.drive1 := rfl
@[simp] theorem State.drive_p2 (s : State) : s.drive .p2 = s.drive2 := rfl

/-! ### advance, expire, none -/

@[simp] theorem State.advance_now (s : State) (t : Time) : (s.advance t).now = max s.now t := rfl
@[simp] theorem State.advance_held (s : State) (t : Time) : (s.advance t).held = s.held := rfl
@[simp] theorem State.advance_drive1 (s : State) (t : Time) : (s.advance t).drive1 = s.drive1 := rfl
@[simp] theorem State.advance_drive2 (s : State) (t : Time) : (s.advance t).drive2 = s.drive2 := rfl
@[simp] theorem State.advance_unlock (s : State) (t : Time) : (s.advance t).unlock = s.unlock := rfl
@[simp] theorem State.advance_sense (s : State) (t : Time) : (s.advance t).sense = s.sense := rfl
@[simp] theorem State.advance_view (s : State) (t : Time) : (s.advance t).view = s.view := rfl
@[simp] theorem State.advance_adm (s : State) (t : Time) : (s.advance t).adm = s.adm := rfl
@[simp] theorem State.advance_chg (s : State) (t : Time) : (s.advance t).chg = s.chg := rfl
@[simp] theorem State.advance_arc (s : State) (t : Time) : (s.advance t).arc = s.arc := rfl
@[simp] theorem State.advance_heat (s : State) (t : Time) : (s.advance t).heat = s.heat := rfl
@[simp] theorem State.advance_att (s : State) (t : Time) : (s.advance t).att = s.att := rfl
@[simp] theorem State.advance_port (s : State) (t : Time) : (s.advance t).port = s.port := rfl
@[simp] theorem State.advance_start (s : State) (t : Time) : (s.advance t).start = s.start := rfl
@[simp] theorem State.advance_free (s : State) (t : Time) : (s.advance t).free = s.free := rfl
@[simp] theorem State.advance_inFlight (s : State) (t : Time) : (s.advance t).inFlight = s.inFlight := rfl
@[simp] theorem State.advance_pending (s : State) (t : Time) : (s.advance t).pending = s.pending := rfl
@[simp] theorem State.advance_drive (s : State) (t : Time) (p : Panto) : (s.advance t).drive p = s.drive p := by
  cases p <;> rfl
@[simp] theorem State.expire_none (s : State) (k : State → Effect) : s.expire none k = .none s := rfl
@[simp] theorem State.expire_some (s : State) (d : Time) (k : State → Effect) :
    s.expire (some d) k = k (s.advance d) := rfl
@[simp] theorem Effect.none_st (s : State) : (Effect.none s).st = s := rfl
@[simp] theorem Effect.none_now (s : State) : (Effect.none s).now = [] := rfl
@[simp] theorem Effect.none_later (s : State) : (Effect.none s).later = [] := rfl

/-! ### slots, channels, loads -/

@[simp] theorem PeerView.setSlot_slot (v : PeerView) (e : CabEnd) (c : CabSlot) : (v.setSlot e c).slot e = c := by
  cases e <;> rfl
@[simp] theorem PeerView.setSlot_other (v : PeerView) (e : CabEnd) (c : CabSlot) :
    (v.setSlot e c).slot e.other = v.slot e.other := by
  cases e <;> rfl
@[simp] theorem PeerView.setSlot_table (v : PeerView) (e : CabEnd) (c : CabSlot) :
    (v.setSlot e c).table = v.table := by
  cases e <;> rfl
@[simp] theorem PeerView.setSlot_mode (v : PeerView) (e : CabEnd) (c : CabSlot) : (v.setSlot e c).mode = v.mode := by
  cases e <;> rfl
@[simp] theorem PeerView.setSlot_heldValues (v : PeerView) (e : CabEnd) (c : CabSlot) :
    (v.setSlot e c).heldValues = v.heldValues := by
  cases e <;> rfl
@[simp] theorem PeerView.setSlot_dupTimer (v : PeerView) (e : CabEnd) (c : CabSlot) :
    (v.setSlot e c).dupTimer = v.dupTimer := by
  cases e <;> rfl
@[simp] theorem ArcMonitor.setChannel_channel (a : ArcMonitor) (p : Panto) (c : Channel) :
    (a.setChannel p c).channel p = c := by
  cases p <;> rfl
@[simp] theorem ArcMonitor.setChannel_other (a : ArcMonitor) (p : Panto) (c : Channel) :
    (a.setChannel p c).channel p.other = a.channel p.other := by
  cases p <;> rfl
@[simp] theorem ArcMonitor.setChannel_second (a : ArcMonitor) (p : Panto) (c : Channel) :
    (a.setChannel p c).second = a.second := by
  cases p <;> rfl
@[simp] theorem ArcMonitor.setChannel_ring (a : ArcMonitor) (p : Panto) (c : Channel) :
    (a.setChannel p c).ring = a.ring := by
  cases p <;> rfl
@[simp] theorem Heating.setLoad_load (h : Heating) (l : Load) (x : LoadState) : (h.setLoad l x).load l = x := by
  cases l with
  | insulator => rfl
  | head p => cases p <;> rfl
theorem Heating.setLoad_load_ne (h : Heating) {l k : Load} (hk : k ≠ l) (x : LoadState) :
    (h.setLoad l x).load k = h.load k := by
  match l, k with
  | .insulator, .insulator => exact absurd rfl hk
  | .insulator, .head .p1 => rfl
  | .insulator, .head .p2 => rfl
  | .head .p1, .insulator => rfl
  | .head .p2, .insulator => rfl
  | .head .p1, .head .p1 => exact absurd rfl hk
  | .head .p1, .head .p2 => rfl
  | .head .p2, .head .p1 => rfl
  | .head .p2, .head .p2 => exact absurd rfl hk

@[simp] theorem Heating.setLoad_temperature (h : Heating) (l : Load) (x : LoadState) : (h.setLoad l x).temperature = h.temperature := by
  cases l with
  | insulator => rfl
  | head p => cases p <;> rfl
@[simp] theorem Heating.setLoad_humidity (h : Heating) (l : Load) (x : LoadState) : (h.setLoad l x).humidity = h.humidity := by
  cases l with
  | insulator => rfl
  | head p => cases p <;> rfl
@[simp] theorem Heating.setLoad_index (h : Heating) (l : Load) (x : LoadState) : (h.setLoad l x).index = h.index := by
  cases l with
  | insulator => rfl
  | head p => cases p <;> rfl
@[simp] theorem Heating.setLoad_saturated (h : Heating) (l : Load) (x : LoadState) : (h.setLoad l x).saturated = h.saturated := by
  cases l with
  | insulator => rfl
  | head p => cases p <;> rfl
@[simp] theorem Heating.setLoad_level (h : Heating) (l : Load) (x : LoadState) : (h.setLoad l x).level = h.level := by
  cases l with
  | insulator => rfl
  | head p => cases p <;> rfl
@[simp] theorem Heating.setLoad_claim (h : Heating) (l : Load) (x : LoadState) : (h.setLoad l x).claim = h.claim := by
  cases l with
  | insulator => rfl
  | head p => cases p <;> rfl
@[simp] theorem Heating.setLoad_grant (h : Heating) (l : Load) (x : LoadState) : (h.setLoad l x).grant = h.grant := by
  cases l with
  | insulator => rfl
  | head p => cases p <;> rfl
@[simp] theorem Heating.setLoad_forceOff (h : Heating) (l : Load) (x : LoadState) : (h.setLoad l x).forceOff = h.forceOff := by
  cases l with
  | insulator => rfl
  | head p => cases p <;> rfl

end Sys2Proof.Machine
end

