-- ==== Sys2Proof/Laws/Settle.lean ====
section
/-! SUPPORT. What the taking of messages keeps: induction over the messages of one command. -/

namespace Sys2Proof.Machine

/-- A property that every handling keeps, for messages of a kind that handlings of that kind send on, holds after all of
them. -/
theorem settle_induct (P : State → Prop) (Q : Msg → Prop)
    (hstep : ∀ s m, P s → Q m →
      P (handle s m).st ∧ (∀ k ∈ (handle s m).now, Q k) ∧ ∀ k ∈ (handle s m).later, Q k)
    (hfl : ∀ s l, P s → P (s.withInFlight l)) :
    ∀ n msgs s, P s → (∀ k ∈ msgs, Q k) → P (settle n msgs s)
  | 0, _, s, hs, _ => hfl s _ hs
  | _ + 1, [], s, hs, _ => hfl s _ hs
  | n + 1, m :: rest, s, hs, hq => by
    obtain ⟨h1, h2, h3⟩ := hstep s m hs (hq m (by simp))
    refine settle_induct P Q hstep hfl n _ _ h1 ?_
    intro k hk
    simp only [List.mem_append] at hk
    rcases hk with (hk | hk) | hk
    · exact h2 k hk
    · exact hq k (by simp [hk])
    · exact h3 k hk

/-- A property that every handling keeps holds after all messages. -/
theorem settle_keeps (P : State → Prop) (hstep : ∀ s m, P s → P (handle s m).st)
    (hfl : ∀ s l, P s → P (s.withInFlight l)) (n : Nat) (msgs : List Msg) (s : State) (hs : P s) :
    P (settle n msgs s) :=
  settle_induct P (fun _ => True) (fun s m h _ => ⟨hstep s m h, fun _ _ => trivial, fun _ _ => trivial⟩) hfl n msgs s hs
    fun _ _ => trivial

/-- A property of the state and the messages that wait, kept by every handling, holds after all of them of the state and
what is left over. -/
theorem settle_with (P : State → List Msg → Prop)
    (hstep : ∀ s m rest, P s (m :: rest) → P (handle s m).st ((handle s m).now ++ rest ++ (handle s m).later))
    (hfl : ∀ s l msgs, P s msgs → P (s.withInFlight l) msgs) :
    ∀ n msgs s, P s msgs → P (settle n msgs s) (settle n msgs s).inFlight
  | 0, _, s, hs => hfl s _ _ hs
  | _ + 1, [], s, hs => hfl s _ _ hs
  | n + 1, m :: rest, s, hs => settle_with P hstep hfl n _ _ (hstep s m rest hs)

/-- What a message brings about, and messages of a kind keep, holds once nothing is left over. -/
theorem settle_done (P : State → Prop) (Q : Msg → Prop) (m : Msg) (hdo : ∀ s, P (handle s m).st)
    (hkeep : ∀ s k, P s → Q k → P (handle s k).st)
    (hsend : ∀ s k, Q k → (∀ j ∈ (handle s k).now, Q j) ∧ ∀ j ∈ (handle s k).later, Q j)
    (hfl : ∀ s l, P s → P (s.withInFlight l)) (n : Nat) (msgs : List Msg) (s : State) (hm : m ∈ msgs)
    (hq : ∀ k ∈ msgs, Q k) (hend : (settle n msgs s).inFlight = []) : P (settle n msgs s) := by
  have h := settle_with (fun s msgs => (∀ k ∈ msgs, Q k) ∧ (P s ∨ m ∈ msgs)) ?_ ?_ n msgs s ⟨hq, .inr hm⟩
  · rw [hend] at h
    simpa using h.2
  · intro s k rest h
    refine ⟨?_, ?_⟩
    · intro j hj
      simp only [List.mem_append] at hj
      rcases hj with (hj | hj) | hj
      · exact (hsend s k (h.1 k (by simp))).1 j hj
      · exact h.1 j (by simp [hj])
      · exact (hsend s k (h.1 k (by simp))).2 j hj
    · rcases h.2 with hp | hp
      · exact .inl (hkeep s k hp (h.1 k (by simp)))
      · rcases List.mem_cons.mp hp with rfl | hp
        · exact .inl (hdo s)
        · exact .inr (by simp [hp])
  · intro s l msgs h
    exact ⟨h.1, h.2.imp (hfl s l) id⟩

/-- The same for a block's handling and everything that follows from it. -/
theorem run_keeps (P : State → Prop) (hstep : ∀ s m, P s → P (handle s m).st)
    (hfl : ∀ s l, P s → P (s.withInFlight l)) (e : Effect) (he : P e.st) : P e.run :=
  settle_keeps P hstep hfl _ _ _ he

@[simp] theorem settle_nil (n : Nat) (s : State) : settle n [] s = s.withInFlight [] := by
  cases n <;> rfl

theorem settle_cons (n : Nat) (m : Msg) (rest : List Msg) (s : State) :
    settle (n + 1) (m :: rest) s =
      settle n ((handle s m).now ++ rest ++ (handle s m).later) (handle s m).st := rfl

@[simp] theorem State.withInFlight_self (s : State) (h : s.inFlight = []) : s.withInFlight [] = s := by
  cases s
  simp only at h
  subst h
  rfl

/-- A handling that sends nothing, on a station with nothing left over, is the whole of the command. -/
theorem run_quiet (e : Effect) (h : e.st.inFlight = []) (hn : e.now = []) (hl : e.later = []) : e.run = e.st := by
  simp [Effect.run, h, hn, hl]

@[simp] theorem run_none (s : State) (h : s.inFlight = []) : (Effect.none s).run = s := run_quiet _ h rfl rfl

/-! ## What a command comes to -/

theorem live_of_held {s : State} (h : s.held = true) (k : State → Effect) : s.live k = .next s := by
  simp [State.live, h]

theorem live_of_up {s : State} (h : s.held = false) (k : State → Effect) : s.live k = .next (k s).run := by
  simp [State.live, h]

theorem liveAt_of_held {s : State} (h : s.held = true) (t : Time) (k : State → Effect) : s.liveAt t k = .next s :=
  live_of_held h _

theorem liveAt_of_up {s : State} (h : s.held = false) (t : Time) (k : State → Effect) :
    s.liveAt t k = .next (k (s.advance t)).run :=
  live_of_up h _

/-- A property that every handling keeps, and that the command's own block keeps, holds after the command. -/
theorem live_keeps (P : State → Prop) (hstep : ∀ s m, P s → P (handle s m).st)
    (hfl : ∀ s l, P s → P (s.withInFlight l)) {s u : State} {k : State → Effect} (h : s.live k = .next u) (hs : P s)
    (hk : P (k s).st) : P u := by
  simp only [State.live, Host.Outcome.next.injEq] at h
  subst h
  split
  · exact hs
  · exact run_keeps P hstep hfl _ hk

end Sys2Proof.Machine
end

