-- ==== Sys2Proof/Laws/Frame.lean ====
section
/-! SUPPORT. No message changes the fields of `Kept`. -/

namespace Sys2Proof.Machine

theorem Drive.Kept.refl (d : Drive) : d.Kept d := by constructor <;> rfl

theorem Drive.Kept.trans {a b c : Drive} (h : a.Kept b) (k : b.Kept c) : a.Kept c := by
  cases h; cases k; constructor <;> simp only [*]

theorem Channel.Kept.refl (c : Channel) : c.Kept c := by constructor <;> rfl

theorem Channel.Kept.trans {a b c : Channel} (h : a.Kept b) (k : b.Kept c) : a.Kept c := by
  cases h; cases k; constructor <;> simp only [*]

theorem Kept.refl (s : State) : Kept s s := by
  constructor <;> first | rfl | exact Drive.Kept.refl _ | exact Channel.Kept.refl _

theorem Kept.trans {a b c : State} (h : Kept a b) (k : Kept b c) : Kept a c := by
  cases h; cases k
  constructor <;>
    first
      | exact Drive.Kept.trans (by assumption) (by assumption)
      | exact Channel.Kept.trans (by assumption) (by assumption)
      | simp only [*]

/-- What is kept of the drive of a pantograph named. -/
theorem Kept.drive {s t : State} (h : Kept s t) (p : Panto) : (s.drive p).Kept (t.drive p) := by
  cases p
  · exact h.drive1
  · exact h.drive2

/-- What is kept of the channel of a pantograph named. -/
theorem Kept.channel {s t : State} (h : Kept s t) (p : Panto) : (s.arc.channel p).Kept (t.arc.channel p) := by
  cases p
  · exact h.ch1
  · exact h.ch2

/-! ## One block written -/

theorem kept_setDrive (s : State) (p : Panto) (d : Drive) (h : (s.drive p).Kept d) : Kept s (s.setDrive p d) := by
  cases p <;> constructor <;> first | rfl | exact h | exact Drive.Kept.refl _ | exact Channel.Kept.refl _

theorem kept_withAdm (s : State) (x : Admission) : Kept s (s.withAdm x) := by
  constructor <;> first | rfl | exact Drive.Kept.refl _ | exact Channel.Kept.refl _

theorem kept_withAtt (s : State) (x : Attention) : Kept s (s.withAtt x) := by
  constructor <;> first | rfl | exact Drive.Kept.refl _ | exact Channel.Kept.refl _

theorem kept_withChg (s : State) (x : Changeover) (h1 : x.closed = s.chg.closed) (h2 : x.endAC = s.chg.endAC)
    (h3 : x.endDC = s.chg.endDC) : Kept s (s.withChg x) := by
  constructor <;> first | rfl | assumption | exact Drive.Kept.refl _ | exact Channel.Kept.refl _

theorem kept_withHeat (s : State) (x : Heating) (h1 : x.temperature = s.heat.temperature)
    (h2 : x.humidity = s.heat.humidity) : Kept s (s.withHeat x) := by
  constructor <;> first | rfl | assumption | exact Drive.Kept.refl _ | exact Channel.Kept.refl _

theorem kept_withView (s : State) (x : PeerView) (h1 : x.table = s.view.table) (h2 : x.slotA = s.view.slotA)
    (h3 : x.slotB = s.view.slotB) (h4 : x.dupTimer = s.view.dupTimer) : Kept s (s.withView x) := by
  constructor <;> first | rfl | assumption | exact Drive.Kept.refl _ | exact Channel.Kept.refl _

theorem kept_withInFlight (s : State) (x : List Msg) : Kept s (s.withInFlight x) := by
  constructor <;> first | rfl | exact Drive.Kept.refl _ | exact Channel.Kept.refl _

theorem kept_portDue (s : State) (b : Bool) : Kept s (portDue s b) := by
  unfold portDue Port.due
  split
  · exact Kept.refl s
  · split <;> constructor <;> first | rfl | exact Drive.Kept.refl _ | exact Channel.Kept.refl _

/-! ## The drive -/

theorem kept_retarget (d : Drive) (now : Time) (t : Nat) : d.Kept (d.retarget now t) := by constructor <;> rfl

theorem kept_restTest (d : Drive) : d.Kept d.restTest := by
  unfold Drive.restTest
  split
  · constructor <;> rfl
  · exact Drive.Kept.refl d

theorem kept_startRamp (d : Drive) (now : Time) : d.Kept (d.startRamp now) := by constructor <;> rfl

theorem kept_leaveRaised (d : Drive) : d.Kept d.leaveRaised := by constructor <;> rfl

theorem kept_fallingNormal (d : Drive) (now : Time) (closed : Bool) : d.Kept (d.enterFallingNormal now closed) := by
  unfold Drive.enterFallingNormal
  refine Drive.Kept.trans ?_ (kept_restTest _)
  split <;> constructor <;> rfl

theorem kept_fallingFast (d : Drive) (now : Time) : d.Kept (d.enterFallingFast now) := by
  unfold Drive.enterFallingFast
  refine Drive.Kept.trans ?_ (kept_restTest _)
  constructor <;> rfl

theorem kept_outcome (d e : Drive) (o : POutcome) (h : d.Kept e) : d.Kept { e with outcome := o } := by
  cases h; constructor <;> assumption

theorem kept_creepTest (d : Drive) (now : Time) (closed : Bool) : d.Kept (d.creepTest now closed) := by
  unfold Drive.creepTest
  split
  · exact kept_outcome _ _ _ (kept_fallingNormal d now closed)
  · exact Drive.Kept.refl d

theorem kept_driveEffect (s : State) (p : Panto) (d : Drive) (before rest : List Msg) (h : (s.drive p).Kept d) :
    Kept s (driveEffect s p d before rest).st := by
  have hk := kept_setDrive s p _ (h.trans (kept_retarget d s.now (targetFor s d)))
  unfold driveEffect
  dsimp only
  split <;> exact hk

theorem kept_driveLower (s : State) (p : Panto) (src : LowerSource) : Kept s (driveLower s p src).st := by
  unfold driveLower
  dsimp only
  repeat' split
  all_goals
    first
      | exact Kept.refl s
      | exact kept_driveEffect s p _ _ _ (kept_outcome _ _ _ (kept_fallingFast _ _))
      | exact kept_driveEffect s p _ _ _ (kept_outcome _ _ _ (kept_fallingNormal _ _ _))

theorem kept_driveRise (s : State) (p : Panto) : Kept s (driveRise s p).st := by
  unfold driveRise
  split
  · exact kept_driveEffect s p _ _ _ (by constructor <;> rfl)
  · exact Kept.refl s

theorem kept_driveToDown (s : State) (p : Panto) (o : POutcome) : Kept s (driveToDown s p o).st := by
  unfold driveToDown
  split
  · exact kept_driveEffect s p _ _ _ (Drive.Kept.trans (by constructor <;> rfl) (kept_creepTest _ _ _))
  · exact Kept.refl s

theorem kept_driveToBidding (s : State) (p : Panto) (x : System) : Kept s (driveToBidding s p x).st := by
  unfold driveToBidding
  split
  · exact kept_driveEffect s p _ _ _ (by constructor <;> rfl)
  · exact Kept.refl s

theorem kept_driveToPreheat (s : State) (p : Panto) : Kept s (driveToPreheat s p).st := by
  unfold driveToPreheat
  split
  · exact kept_driveEffect s p _ _ _ (by constructor <;> rfl)
  · exact Kept.refl s

theorem kept_drivePressure (s : State) (p : Panto) : Kept s (drivePressure s p).st :=
  kept_driveEffect s p _ _ _ (Drive.Kept.refl _)

theorem kept_driveBreakerOpened (s : State) (p : Panto) : Kept s (driveBreakerOpened s p).st := by
  unfold driveBreakerOpened
  split
  · exact kept_driveEffect s p _ _ _ (Drive.Kept.trans (by constructor <;> rfl) (kept_restTest _))
  · exact Kept.refl s

/-! ## The admission unit -/

theorem kept_admReturn (s : State) (p : Panto) (o : POutcome) : Kept s (admReturn s p o).st := by
  unfold admReturn
  split
  · exact kept_withAdm s _
  · exact Kept.refl s

theorem kept_admCheck (s : State) : Kept s (admCheck s).st := by
  unfold admCheck
  repeat' split
  all_goals first | exact Kept.refl s | exact kept_admReturn s _ _

theorem kept_admRise (s : State) (p : Panto) : Kept s (admRise s p).st := kept_withAdm s _

theorem kept_admTest (s : State) : Kept s (admTest s).st := by
  unfold admTest
  repeat' split
  all_goals first | exact Kept.refl s | exact kept_withAdm s _

theorem kept_admPanto (s : State) (p : Panto) (old new : PState) : Kept s (admPanto s p old new).st := by
  unfold admPanto
  dsimp only
  split
  · exact kept_withAdm s _
  · exact Kept.refl s

theorem kept_admWindowEnd (s : State) : Kept s (admWindowEnd s).st := by
  unfold admWindowEnd
  split
  · exact kept_withAdm s _
  · exact Kept.refl s

theorem kept_admReport (s : State) (x y : PState) (taken : Time) : Kept s (admReport s x y taken).st := by
  have h : ∀ a, Kept s (admWindowEnd (s.withAdm a)).st := fun a => (kept_withAdm s a).trans (kept_admWindowEnd _)
  unfold admReport
  split
  · exact Kept.refl s
  · dsimp only
    repeat' split
    all_goals first | exact h _ | exact Kept.refl s

theorem kept_admHead (s : State) (p : Panto) (on : Bool) : Kept s (admHead s p on).st := by
  unfold admHead
  repeat' split
  all_goals first | exact Kept.refl s | exact kept_withAdm s _

theorem kept_admStart (s : State) : Kept s (admStart s).st := by
  unfold admStart
  repeat' split
  all_goals first | exact Kept.refl s | exact kept_withAdm s _

/-! ## The changeover controller -/

/-- The inputs of the controller: what no rule of its own changes. -/
structure Changeover.SameInputs (c e : Changeover) : Prop where
  closed : e.closed = c.closed
  endAC : e.endAC = c.endAC
  endDC : e.endDC = c.endDC

theorem kept_chg (s : State) (x : Changeover) (h : s.chg.SameInputs x) : Kept s (s.withChg x) :=
  kept_withChg s x h.closed h.endAC h.endDC

theorem sameInputs_setRequest (c : Changeover) (now : Time) (b : Bool) : c.SameInputs (c.setRequest now b) := by
  unfold Changeover.setRequest
  split <;> constructor <;> rfl

theorem sameInputs_retarget (c : Changeover) (now : Time) (side : Side) : c.SameInputs (c.retarget now side) := by
  unfold Changeover.retarget
  split <;> constructor <;> rfl

theorem sameInputs_entered (c : Changeover) (s : State) (ph : Phase) : c.SameInputs (c.entered s ph) := by
  obtain ⟨h1, h2, h3⟩ := sameInputs_setRequest { c with phase := ph } s.now (requestAtEntry s ph)
  unfold Changeover.entered
  dsimp only
  repeat' split
  all_goals constructor <;> assumption

theorem kept_enterPhase (s : State) (c : Changeover) (ph : Phase) (before : List Msg) (h : s.chg.SameInputs c) :
    Kept s (enterPhase s c ph before).st := by
  obtain ⟨h1, h2, h3⟩ := sameInputs_entered c s ph
  exact kept_withChg s _ (h1.trans h.closed) (h2.trans h.endAC) (h3.trans h.endDC)

theorem kept_chgEffect (s : State) (c : Changeover) (more : List Msg) (h : s.chg.SameInputs c) :
    Kept s (chgEffect s c more).st := kept_chg s c h

theorem sameInputs_refl (c : Changeover) : c.SameInputs c := ⟨rfl, rfl, rfl⟩

theorem kept_chgExits (s : State) : Kept s (chgExits s).st := by
  unfold chgExits
  repeat' split
  all_goals first | exact Kept.refl s | exact kept_enterPhase s _ _ _ (sameInputs_refl _)

theorem kept_chgPanto (s : State) : Kept s (chgPanto s).st := by
  unfold chgPanto
  have h : s.chg.SameInputs { s.chg with lineDead := false } := ⟨rfl, rfl, rfl⟩
  dsimp only
  repeat' split
  all_goals
    first
      | exact kept_enterPhase s _ _ _ h
      | exact kept_enterPhase s _ _ _ (sameInputs_refl _)
      | exact kept_chg s _ h
      | exact kept_chg s _ (sameInputs_refl _)

theorem kept_chgDemand (s : State) (a b : Bool) : Kept s (chgDemand s a b).st := by
  have h1 : s.chg.SameInputs (s.chg.setRequest s.now false) := sameInputs_setRequest _ _ _
  have h2 : ∀ c side, s.chg.SameInputs c → s.chg.SameInputs (c.retarget s.now side) := fun c side h =>
    ⟨(sameInputs_retarget c s.now side).closed.trans h.closed, (sameInputs_retarget c s.now side).endAC.trans h.endAC,
      (sameInputs_retarget c s.now side).endDC.trans h.endDC⟩
  unfold chgDemand
  dsimp only
  repeat' split
  all_goals
    first
      | exact kept_enterPhase s _ _ _ h1
      | exact kept_enterPhase s _ _ _ (sameInputs_refl _)
      | exact kept_chg s _ h1
      | exact kept_chg s _ (sameInputs_refl _)
      | exact kept_chg s _ (h2 _ _ h1)
      | exact kept_chg s _ (h2 _ _ (sameInputs_refl _))

theorem kept_chgGate (s : State) (r : GateReport) : Kept s (chgGate s r).st := by
  have h : s.chg.SameInputs { s.chg with lineDead := lineDeadAfter s r } := ⟨rfl, rfl, rfl⟩
  unfold chgGate
  dsimp only
  repeat' split
  all_goals first | exact kept_enterPhase s _ _ _ h | exact kept_chg s _ h

theorem kept_chgOpen (s : State) : Kept s (chgOpen s).st := kept_chgEffect s _ _ (sameInputs_setRequest _ _ _)

theorem kept_chgLevel (s : State) (n : Nat) : Kept s (chgLevel s n).st := by
  unfold chgLevel
  split
  · exact kept_chgOpen s
  · exact Kept.refl s

theorem kept_chgArrive (s : State) : Kept s (chgArrive s).st := by
  have h : ∀ p, s.chg.SameInputs (s.chg.endTransit p) := fun p => ⟨rfl, rfl, rfl⟩
  unfold chgArrive
  repeat' split
  all_goals
    first
      | exact Kept.refl s
      | exact kept_enterPhase s _ _ _ (h _)
      | exact kept_chgEffect s _ _ (h _)

theorem kept_chgCleared (s : State) (c : Cause) : Kept s (chgCleared s c).st := by
  unfold chgCleared
  repeat' split
  all_goals first | exact Kept.refl s | exact kept_enterPhase s _ _ _ (sameInputs_refl _)

theorem kept_chgReopen (s : State) : Kept s (chgReopen s).st := by
  unfold chgReopen
  split
  · exact kept_enterPhase s _ _ _ (sameInputs_refl _)
  · exact Kept.refl s

/-! ## The attention unit -/

theorem kept_attentionEffect (s : State) (a : Attention) (more : List Msg) : Kept s (attentionEffect s a more).st := by
  unfold attentionEffect
  dsimp only
  split <;> exact kept_withAtt s _

theorem kept_attClear (s : State) (c : Cause) : Kept s (attClear s c).st := kept_attentionEffect s _ _

theorem kept_attEnd (s : State) (c : Cause) : Kept s (attEnd s c).st := by
  unfold attEnd
  split
  · exact kept_attClear s c
  · exact Kept.refl s

theorem kept_attRecheck (s : State) (c : Cause) : Kept s (attRecheck s c).st := by
  unfold attRecheck
  split
  · exact kept_attClear s c
  · exact Kept.refl s

/-! ## The ice and heating unit -/

theorem kept_heatSpend (s : State) (x y : Nat) : Kept s (heatSpend s x y).st := kept_withHeat s _ rfl rfl

theorem kept_heatClaim (s : State) : Kept s (heatClaim s).st := kept_heatSpend s _ _

theorem kept_heatLevel (s : State) : Kept s (heatLevel s).st := by
  unfold heatLevel
  refine Kept.trans ?_ (kept_heatClaim _)
  exact kept_withHeat s _ rfl rfl

theorem kept_heatCleared (s : State) : Kept s (heatCleared s).st := by
  unfold heatCleared
  refine Kept.trans ?_ (kept_heatClaim _)
  exact kept_withHeat s _ rfl rfl

theorem kept_iceEvaluate (s : State) (h : Heating) (h1 : h.temperature = s.heat.temperature)
    (h2 : h.humidity = s.heat.humidity) : Kept s (iceEvaluate s h).st := kept_withHeat s _ h1 h2

/-! ## The arc monitor, the peer view, start-up control -/

theorem kept_watched (c : Channel) (b : Bool) : c.Kept (c.watched b) := by
  unfold Channel.watched
  repeat' split
  all_goals constructor <;> rfl

theorem kept_arcWatch (s : State) : Kept s (arcWatch s).st := by
  unfold arcWatch
  constructor <;> first | rfl | exact Drive.Kept.refl _ | exact kept_watched _ _

theorem kept_viewTake (s : State) : Kept s (viewTake s).st := kept_withView s _ rfl rfl rfl rfl

theorem kept_viewGate (s : State) (r : GateReport) : Kept s (viewGate s r).st := kept_withView s _ rfl rfl rfl rfl

theorem kept_startFreeze (s : State) (c : Settings) (k : ConfigState) : Kept s (startFreeze s c k).st := by
  constructor <;> first | rfl | exact Drive.Kept.refl _ | exact Channel.Kept.refl _

theorem kept_startBlock (s : State) (b : Settings) : Kept s (startBlock s b).st := by
  unfold startBlock
  repeat' split
  all_goals first | exact Kept.refl s | exact kept_startFreeze s _ _

theorem kept_startListenCheck (s : State) : Kept s (startListenCheck s).st := by
  have h1 : ∀ m t, Kept s (s.withStart { s.start with mode := m, adopt := t }) := fun m t => by
    constructor <;> first | rfl | exact Drive.Kept.refl _ | exact Channel.Kept.refl _
  have h2 : ∀ m, Kept s (s.withStart { s.start with mode := m }) := fun m => by
    constructor <;> first | rfl | exact Drive.Kept.refl _ | exact Channel.Kept.refl _
  unfold startListenCheck
  split
  · split
    · unfold startEnterAdopt
      dsimp only
      split
      · exact ((h1 _ _).trans (kept_portDue _ _)).trans (kept_startFreeze _ _ _)
      · exact (h1 _ _).trans (kept_portDue _ _)
    · exact (h2 _).trans (kept_portDue _ _)
  · exact Kept.refl s

/-! ## Every message -/

/-- No message changes what only the commands of a block change. -/
theorem handle_kept (s : State) (m : Msg) : Kept s (handle s m).st := by
  cases m with
  | lower p src => exact kept_driveLower s p src
  | rise p => exact kept_driveRise s p
  | toDown p o => exact kept_driveToDown s p o
  | toBidding p x => exact kept_driveToBidding s p x
  | toPreheat p => exact kept_driveToPreheat s p
  | pressure p => exact kept_drivePressure s p
  | breakerOpened p => exact kept_driveBreakerOpened s p
  | admReturn p o => exact kept_admReturn s p o
  | admCheck => exact kept_admCheck s
  | admPanto p old new => exact kept_admPanto s p old new
  | admTest => exact kept_admTest s
  | admYield => exact Kept.refl s
  | admDropAhead => exact kept_withAdm s _
  | admReport x y t => exact kept_admReport s x y t
  | admHead p on => exact kept_admHead s p on
  | startTest => exact kept_admStart s
  | viewTake => exact kept_viewTake s
  | viewGate r => exact kept_viewGate s r
  | chgDemand a b => exact kept_chgDemand s a b
  | chgGate r => exact kept_chgGate s r
  | chgPanto => exact kept_chgPanto s
  | chgOpen => exact kept_chgOpen s
  | chgLevel n => exact kept_chgLevel s n
  | chgExits => exact kept_chgExits s
  | chgArrive => exact kept_chgArrive s
  | chgSelector => exact Kept.refl s
  | chgCleared c => exact kept_chgCleared s c
  | chgReopen => exact kept_chgReopen s
  | latch c => exact kept_attentionEffect s _ _
  | endOf c => exact kept_attEnd s c
  | recheck c => exact kept_attRecheck s c
  | metMark c => exact kept_withAtt s _
  | attRecompute => exact kept_attentionEffect s _ _
  | heatClaim => exact kept_heatClaim s
  | heatGrant => exact kept_heatSpend s _ _
  | heatLevel => exact kept_heatLevel s
  | heatStep arcs => exact kept_iceEvaluate s _ rfl rfl
  | heatCleared => exact kept_heatCleared s
  | arcWatch => exact kept_arcWatch s
  | due => exact kept_portDue s true
  | block b => exact kept_startBlock s b
  | listenCheck => exact kept_startListenCheck s

/-- What a command's block leaves, the rest of the command keeps, where no message changes it. -/
theorem run_kept (e : Effect) : Kept e.st e.run :=
  run_keeps (Kept e.st) (fun s m h => h.trans (handle_kept s m)) (fun s l h => h.trans (kept_withInFlight s l)) e
    (Kept.refl _)

theorem settle_kept (n : Nat) (msgs : List Msg) (s : State) : Kept s (settle n msgs s) :=
  settle_keeps (Kept s) (fun u m h => h.trans (handle_kept u m)) (fun u l h => h.trans (kept_withInFlight u l)) n msgs s
    (Kept.refl s)

end Sys2Proof.Machine
end

