-- ==== Sys2Proof/Laws/Blocks.lean ====
section
/-! SUPPORT. Each message is taken by one block, and writes no other (spec/00_scope.md 3): block by block, what a message
of another block leaves unchanged. -/

namespace Sys2Proof.Machine

/-- The blocks that take messages; the end of LISTEN is taken by start-up control and the port together. -/
inductive Owner where
  | drive | admission | view | changeover | attention | heating | arc | port | startUp
  deriving DecidableEq, Repr

/-- The block that takes a message. -/
def Msg.owner : Msg → Owner
  | .lower _ _ => .drive
  | .rise _ => .drive
  | .toDown _ _ => .drive
  | .toBidding _ _ => .drive
  | .toPreheat _ => .drive
  | .pressure _ => .drive
  | .breakerOpened _ => .drive
  | .admReturn _ _ => .admission
  | .admCheck => .admission
  | .admPanto _ _ _ => .admission
  | .admTest => .admission
  | .admYield => .admission
  | .admDropAhead => .admission
  | .admReport _ _ _ => .admission
  | .admHead _ _ => .admission
  | .startTest => .admission
  | .viewTake => .view
  | .viewGate _ => .view
  | .chgDemand _ _ => .changeover
  | .chgGate _ => .changeover
  | .chgPanto => .changeover
  | .chgOpen => .changeover
  | .chgLevel _ => .changeover
  | .chgExits => .changeover
  | .chgArrive => .changeover
  | .chgSelector => .changeover
  | .chgCleared _ => .changeover
  | .chgReopen => .changeover
  | .latch _ => .attention
  | .endOf _ => .attention
  | .recheck _ => .attention
  | .metMark _ => .attention
  | .attRecompute => .attention
  | .heatClaim => .heating
  | .heatGrant => .heating
  | .heatLevel => .heating
  | .heatStep _ => .heating
  | .heatCleared => .heating
  | .arcWatch => .arc
  | .due => .port
  | .block _ => .startUp
  | .listenCheck => .startUp

/-- `t` is `s` but for the drives. -/
structure OnlyDrive (s t : State) : Prop where
  adm : t.adm = s.adm
  view : t.view = s.view
  chg : t.chg = s.chg
  att : t.att = s.att
  heat : t.heat = s.heat
  arc : t.arc = s.arc
  port : t.port = s.port
  start : t.start = s.start

/-- `t` is `s` but for the admission unit. -/
structure OnlyAdm (s t : State) : Prop where
  drive1 : t.drive1 = s.drive1
  drive2 : t.drive2 = s.drive2
  view : t.view = s.view
  chg : t.chg = s.chg
  att : t.att = s.att
  heat : t.heat = s.heat
  arc : t.arc = s.arc
  port : t.port = s.port
  start : t.start = s.start

/-- `t` is `s` but for the changeover controller. -/
structure OnlyChg (s t : State) : Prop where
  drive1 : t.drive1 = s.drive1
  drive2 : t.drive2 = s.drive2
  adm : t.adm = s.adm
  view : t.view = s.view
  att : t.att = s.att
  heat : t.heat = s.heat
  arc : t.arc = s.arc
  port : t.port = s.port
  start : t.start = s.start

/-- `t` is `s` but for the attention unit. -/
structure OnlyAtt (s t : State) : Prop where
  drive1 : t.drive1 = s.drive1
  drive2 : t.drive2 = s.drive2
  adm : t.adm = s.adm
  view : t.view = s.view
  chg : t.chg = s.chg
  heat : t.heat = s.heat
  arc : t.arc = s.arc
  port : t.port = s.port
  start : t.start = s.start

/-- `t` is `s` but for the ice and heating unit. -/
structure OnlyHeat (s t : State) : Prop where
  drive1 : t.drive1 = s.drive1
  drive2 : t.drive2 = s.drive2
  adm : t.adm = s.adm
  view : t.view = s.view
  chg : t.chg = s.chg
  att : t.att = s.att
  arc : t.arc = s.arc
  port : t.port = s.port
  start : t.start = s.start

/-- `t` is `s` but for the roof line port and start-up control. -/
structure OnlyLine (s t : State) : Prop where
  drive1 : t.drive1 = s.drive1
  drive2 : t.drive2 = s.drive2
  adm : t.adm = s.adm
  view : t.view = s.view
  chg : t.chg = s.chg
  att : t.att = s.att
  heat : t.heat = s.heat
  arc : t.arc = s.arc

theorem OnlyDrive.refl (s : State) : OnlyDrive s s := by constructor <;> rfl
theorem OnlyAdm.refl (s : State) : OnlyAdm s s := by constructor <;> rfl
theorem OnlyChg.refl (s : State) : OnlyChg s s := by constructor <;> rfl
theorem OnlyAtt.refl (s : State) : OnlyAtt s s := by constructor <;> rfl
theorem OnlyHeat.refl (s : State) : OnlyHeat s s := by constructor <;> rfl
theorem OnlyLine.refl (s : State) : OnlyLine s s := by constructor <;> rfl

theorem OnlyLine.trans {a b c : State} (h : OnlyLine a b) (k : OnlyLine b c) : OnlyLine a c := by
  cases h; cases k; constructor <;> simp only [*]

theorem only_setDrive (s : State) (p : Panto) (d : Drive) : OnlyDrive s (s.setDrive p d) := by
  cases p <;> constructor <;> rfl
theorem only_withAdm (s : State) (x : Admission) : OnlyAdm s (s.withAdm x) := by constructor <;> rfl
theorem only_withChg (s : State) (x : Changeover) : OnlyChg s (s.withChg x) := by constructor <;> rfl
theorem only_withAtt (s : State) (x : Attention) : OnlyAtt s (s.withAtt x) := by constructor <;> rfl
theorem only_withHeat (s : State) (x : Heating) : OnlyHeat s (s.withHeat x) := by constructor <;> rfl
theorem only_withPort (s : State) (x : Port) : OnlyLine s (s.withPort x) := by constructor <;> rfl
theorem only_withStart (s : State) (x : StartUp) : OnlyLine s (s.withStart x) := by constructor <;> rfl

/-! ## The drive -/

/-- What writing a drive record does: that record, with its target computed anew, and no other block. -/
theorem driveEffect_st (s : State) (p : Panto) (d : Drive) (before rest : List Msg) :
    (driveEffect s p d before rest).st = s.setDrive p (d.retarget s.now (targetFor s d)) := by
  unfold driveEffect
  dsimp only
  split <;> rfl

theorem only_driveEffect (s : State) (p : Panto) (d : Drive) (before rest : List Msg) :
    OnlyDrive s (driveEffect s p d before rest).st := by
  rw [driveEffect_st]
  exact only_setDrive s p _

theorem handle_onlyDrive (s : State) (m : Msg) (h : m.owner = .drive) : OnlyDrive s (handle s m).st := by
  cases m with
  | lower p src =>
    unfold handle driveLower
    dsimp only
    repeat' split
    all_goals first | exact OnlyDrive.refl s | exact only_driveEffect s p _ _ _
  | rise p =>
    unfold handle driveRise
    dsimp only
    split <;> first | exact OnlyDrive.refl s | exact only_driveEffect s p _ _ _
  | toDown p o =>
    unfold handle driveToDown
    dsimp only
    split <;> first | exact OnlyDrive.refl s | exact only_driveEffect s p _ _ _
  | toBidding p x =>
    unfold handle driveToBidding
    dsimp only
    split <;> first | exact OnlyDrive.refl s | exact only_driveEffect s p _ _ _
  | toPreheat p =>
    unfold handle driveToPreheat
    dsimp only
    split <;> first | exact OnlyDrive.refl s | exact only_driveEffect s p _ _ _
  | pressure p => exact only_driveEffect s p _ _ _
  | breakerOpened p =>
    unfold handle driveBreakerOpened
    dsimp only
    split <;> first | exact OnlyDrive.refl s | exact only_driveEffect s p _ _ _
  | _ => cases h

/-! ## The admission unit -/

theorem only_admReturn (s : State) (p : Panto) (o : POutcome) : OnlyAdm s (admReturn s p o).st := by
  unfold admReturn
  split
  · exact only_withAdm s _
  · exact OnlyAdm.refl s

theorem only_admWindowEnd (s : State) : OnlyAdm s (admWindowEnd s).st := by
  unfold admWindowEnd
  split
  · exact only_withAdm s _
  · exact OnlyAdm.refl s

theorem handle_onlyAdm (s : State) (m : Msg) (h : m.owner = .admission) : OnlyAdm s (handle s m).st := by
  cases m with
  | admReturn p o => exact only_admReturn s p o
  | admCheck =>
    unfold handle admCheck
    dsimp only
    repeat' split
    all_goals first | exact OnlyAdm.refl s | exact only_admReturn s _ _
  | admPanto p old new =>
    unfold handle admPanto
    dsimp only
    split <;> first | exact OnlyAdm.refl s | exact only_withAdm s _
  | admTest =>
    unfold handle admTest
    dsimp only
    repeat' split
    all_goals first | exact OnlyAdm.refl s | exact only_withAdm s _
  | admYield => exact OnlyAdm.refl s
  | admDropAhead => exact only_withAdm s _
  | admReport x y t =>
    have h : ∀ a, OnlyAdm s (admWindowEnd (s.withAdm a)).st := fun a => by
      have k := only_admWindowEnd (s.withAdm a)
      cases k
      constructor <;> assumption
    unfold handle admReport
    dsimp only
    repeat' split
    all_goals first | exact OnlyAdm.refl s | exact h _
  | admHead p on =>
    unfold handle admHead
    dsimp only
    repeat' split
    all_goals first | exact OnlyAdm.refl s | exact only_withAdm s _
  | startTest =>
    unfold handle admStart
    dsimp only
    repeat' split
    all_goals first | exact OnlyAdm.refl s | exact only_withAdm s _
  | _ => cases h

/-! ## The changeover controller -/

/-- A change of phase writes the controller's record alone. -/
theorem enterPhase_st (s : State) (c : Changeover) (ph : Phase) (before : List Msg) :
    (enterPhase s c ph before).st = s.withChg (c.entered s ph) := rfl

theorem handle_onlyChg (s : State) (m : Msg) (h : m.owner = .changeover) : OnlyChg s (handle s m).st := by
  cases m with
  | chgDemand a b =>
    unfold handle chgDemand
    dsimp only
    repeat' split
    all_goals exact only_withChg s _
  | chgGate r =>
    unfold handle chgGate
    dsimp only
    repeat' split
    all_goals exact only_withChg s _
  | chgPanto =>
    unfold handle chgPanto
    dsimp only
    repeat' split
    all_goals exact only_withChg s _
  | chgOpen => exact only_withChg s _
  | chgLevel n =>
    unfold handle chgLevel
    dsimp only
    split <;> first | exact OnlyChg.refl s | exact only_withChg s _
  | chgExits =>
    unfold handle chgExits
    dsimp only
    repeat' split
    all_goals first | exact OnlyChg.refl s | exact only_withChg s _
  | chgArrive =>
    unfold handle chgArrive
    dsimp only
    repeat' split
    all_goals first | exact OnlyChg.refl s | exact only_withChg s _
  | chgSelector => exact OnlyChg.refl s
  | chgCleared c =>
    unfold handle chgCleared
    dsimp only
    repeat' split
    all_goals first | exact OnlyChg.refl s | exact only_withChg s _
  | chgReopen =>
    unfold handle chgReopen
    dsimp only
    split <;> first | exact OnlyChg.refl s | exact only_withChg s _
  | _ => cases h

/-! ## The attention unit -/

/-- What the attention unit writes whenever its table changes: that table with level, leading cause and detected set
computed anew (R143). -/
theorem attentionEffect_st (s : State) (a : Attention) (more : List Msg) :
    (attentionEffect s a more).st = s.withAtt (a.recomputed s.start.config.enables s.chg.phase) := by
  unfold attentionEffect
  dsimp only
  split <;> rfl

theorem only_attentionEffect (s : State) (a : Attention) (more : List Msg) :
    OnlyAtt s (attentionEffect s a more).st := by
  rw [attentionEffect_st]
  exact only_withAtt s _

theorem handle_onlyAtt (s : State) (m : Msg) (h : m.owner = .attention) : OnlyAtt s (handle s m).st := by
  cases m with
  | latch c => exact only_attentionEffect s _ _
  | endOf c =>
    unfold handle attEnd
    dsimp only
    split <;> first | exact OnlyAtt.refl s | exact only_attentionEffect s _ _
  | recheck c =>
    unfold handle attRecheck
    dsimp only
    split <;> first | exact OnlyAtt.refl s | exact only_attentionEffect s _ _
  | metMark c => exact only_withAtt s _
  | attRecompute => exact only_attentionEffect s _ _
  | _ => cases h

/-! ## The other blocks -/

theorem handle_onlyHeat (s : State) (m : Msg) (h : m.owner = .heating) : OnlyHeat s (handle s m).st := by
  cases m with
  | heatClaim => exact only_withHeat s _
  | heatGrant => exact only_withHeat s _
  | heatLevel => constructor <;> rfl
  | heatStep n => exact only_withHeat s _
  | heatCleared => constructor <;> rfl
  | _ => cases h

theorem only_portDue (s : State) (b : Bool) : OnlyLine s (portDue s b) := only_withPort s _

theorem only_startFreeze (s : State) (c : Settings) (k : ConfigState) : OnlyLine s (startFreeze s c k).st :=
  only_withStart s _

theorem handle_onlyLine (s : State) (m : Msg) (h : m.owner = .port ∨ m.owner = .startUp) :
    OnlyLine s (handle s m).st := by
  cases m with
  | due => exact only_portDue s true
  | block b =>
    unfold handle startBlock
    dsimp only
    repeat' split
    all_goals first | exact OnlyLine.refl s | exact only_startFreeze s _ _
  | listenCheck =>
    unfold handle startListenCheck
    dsimp only
    split
    · split
      · unfold startEnterAdopt
        dsimp only
        split
        · exact ((only_withStart s _).trans (only_portDue _ _)).trans (only_startFreeze _ _ _)
        · exact (only_withStart s _).trans (only_portDue _ _)
      · exact (only_withStart s _).trans (only_portDue _ _)
    · exact OnlyLine.refl s
  | _ => rcases h with h | h <;> cases h

/-- The peer view's two messages write the peer view alone. -/
theorem handle_view_st (s : State) (r : GateReport) :
    (handle s .viewTake).st = s.withView (s.view.taken s.now) ∧
      ∃ n, (handle s (.viewGate r)).st = s.withView { s.view with disagree := n } := ⟨rfl, _, rfl⟩

/-- The arc monitor's message writes the two watch states alone. -/
theorem handle_arc_st (s : State) :
    (handle s .arcWatch).st = s.withArc
      { s.arc with ch1 := s.arc.ch1.watched (watchCondition s .p1), ch2 := s.arc.ch2.watched (watchCondition s .p2) } :=
  rfl

/-! ## Block by block -/

theorem handle_drive1 (s : State) (m : Msg) (h : m.owner ≠ .drive) : (handle s m).st.drive1 = s.drive1 := by
  generalize ho : m.owner = o at h
  cases o with
  | drive => exact absurd rfl h
  | admission => exact (handle_onlyAdm s m ho).drive1
  | changeover => exact (handle_onlyChg s m ho).drive1
  | attention => exact (handle_onlyAtt s m ho).drive1
  | heating => exact (handle_onlyHeat s m ho).drive1
  | port => exact (handle_onlyLine s m (.inl ho)).drive1
  | startUp => exact (handle_onlyLine s m (.inr ho)).drive1
  | view => cases m <;> first | rfl | cases ho
  | arc => cases m <;> first | rfl | cases ho

theorem handle_drive2 (s : State) (m : Msg) (h : m.owner ≠ .drive) : (handle s m).st.drive2 = s.drive2 := by
  generalize ho : m.owner = o at h
  cases o with
  | drive => exact absurd rfl h
  | admission => exact (handle_onlyAdm s m ho).drive2
  | changeover => exact (handle_onlyChg s m ho).drive2
  | attention => exact (handle_onlyAtt s m ho).drive2
  | heating => exact (handle_onlyHeat s m ho).drive2
  | port => exact (handle_onlyLine s m (.inl ho)).drive2
  | startUp => exact (handle_onlyLine s m (.inr ho)).drive2
  | view => cases m <;> first | rfl | cases ho
  | arc => cases m <;> first | rfl | cases ho

theorem handle_adm (s : State) (m : Msg) (h : m.owner ≠ .admission) : (handle s m).st.adm = s.adm := by
  generalize ho : m.owner = o at h
  cases o with
  | drive => exact (handle_onlyDrive s m ho).adm
  | admission => exact absurd rfl h
  | changeover => exact (handle_onlyChg s m ho).adm
  | attention => exact (handle_onlyAtt s m ho).adm
  | heating => exact (handle_onlyHeat s m ho).adm
  | port => exact (handle_onlyLine s m (.inl ho)).adm
  | startUp => exact (handle_onlyLine s m (.inr ho)).adm
  | view => cases m <;> first | rfl | cases ho
  | arc => cases m <;> first | rfl | cases ho

theorem handle_view (s : State) (m : Msg) (h : m.owner ≠ .view) : (handle s m).st.view = s.view := by
  generalize ho : m.owner = o at h
  cases o with
  | drive => exact (handle_onlyDrive s m ho).view
  | admission => exact (handle_onlyAdm s m ho).view
  | changeover => exact (handle_onlyChg s m ho).view
  | attention => exact (handle_onlyAtt s m ho).view
  | heating => exact (handle_onlyHeat s m ho).view
  | port => exact (handle_onlyLine s m (.inl ho)).view
  | startUp => exact (handle_onlyLine s m (.inr ho)).view
  | view => exact absurd rfl h
  | arc => cases m <;> first | rfl | cases ho

theorem handle_chg (s : State) (m : Msg) (h : m.owner ≠ .changeover) : (handle s m).st.chg = s.chg := by
  generalize ho : m.owner = o at h
  cases o with
  | drive => exact (handle_onlyDrive s m ho).chg
  | admission => exact (handle_onlyAdm s m ho).chg
  | changeover => exact absurd rfl h
  | attention => exact (handle_onlyAtt s m ho).chg
  | heating => exact (handle_onlyHeat s m ho).chg
  | port => exact (handle_onlyLine s m (.inl ho)).chg
  | startUp => exact (handle_onlyLine s m (.inr ho)).chg
  | view => cases m <;> first | rfl | cases ho
  | arc => cases m <;> first | rfl | cases ho

theorem handle_att (s : State) (m : Msg) (h : m.owner ≠ .attention) : (handle s m).st.att = s.att := by
  generalize ho : m.owner = o at h
  cases o with
  | drive => exact (handle_onlyDrive s m ho).att
  | admission => exact (handle_onlyAdm s m ho).att
  | changeover => exact (handle_onlyChg s m ho).att
  | attention => exact absurd rfl h
  | heating => exact (handle_onlyHeat s m ho).att
  | port => exact (handle_onlyLine s m (.inl ho)).att
  | startUp => exact (handle_onlyLine s m (.inr ho)).att
  | view => cases m <;> first | rfl | cases ho
  | arc => cases m <;> first | rfl | cases ho

theorem handle_heat (s : State) (m : Msg) (h : m.owner ≠ .heating) : (handle s m).st.heat = s.heat := by
  generalize ho : m.owner = o at h
  cases o with
  | drive => exact (handle_onlyDrive s m ho).heat
  | admission => exact (handle_onlyAdm s m ho).heat
  | changeover => exact (handle_onlyChg s m ho).heat
  | attention => exact (handle_onlyAtt s m ho).heat
  | heating => exact absurd rfl h
  | port => exact (handle_onlyLine s m (.inl ho)).heat
  | startUp => exact (handle_onlyLine s m (.inr ho)).heat
  | view => cases m <;> first | rfl | cases ho
  | arc => cases m <;> first | rfl | cases ho

theorem handle_arc (s : State) (m : Msg) (h : m.owner ≠ .arc) : (handle s m).st.arc = s.arc := by
  generalize ho : m.owner = o at h
  cases o with
  | drive => exact (handle_onlyDrive s m ho).arc
  | admission => exact (handle_onlyAdm s m ho).arc
  | changeover => exact (handle_onlyChg s m ho).arc
  | attention => exact (handle_onlyAtt s m ho).arc
  | heating => exact (handle_onlyHeat s m ho).arc
  | port => exact (handle_onlyLine s m (.inl ho)).arc
  | startUp => exact (handle_onlyLine s m (.inr ho)).arc
  | view => cases m <;> first | rfl | cases ho
  | arc => exact absurd rfl h

theorem handle_port (s : State) (m : Msg) (h : m.owner ≠ .port) (h' : m.owner ≠ .startUp) :
    (handle s m).st.port = s.port := by
  generalize ho : m.owner = o at h h'
  cases o with
  | drive => exact (handle_onlyDrive s m ho).port
  | admission => exact (handle_onlyAdm s m ho).port
  | changeover => exact (handle_onlyChg s m ho).port
  | attention => exact (handle_onlyAtt s m ho).port
  | heating => exact (handle_onlyHeat s m ho).port
  | port => exact absurd rfl h
  | startUp => exact absurd rfl h'
  | view => cases m <;> first | rfl | cases ho
  | arc => cases m <;> first | rfl | cases ho

theorem handle_start (s : State) (m : Msg) (h : m.owner ≠ .startUp) : (handle s m).st.start = s.start := by
  generalize ho : m.owner = o at h
  cases o with
  | drive => exact (handle_onlyDrive s m ho).start
  | admission => exact (handle_onlyAdm s m ho).start
  | changeover => exact (handle_onlyChg s m ho).start
  | attention => exact (handle_onlyAtt s m ho).start
  | heating => exact (handle_onlyHeat s m ho).start
  | port => cases m <;> first | rfl | cases ho
  | startUp => exact absurd rfl h
  | view => cases m <;> first | rfl | cases ho
  | arc => cases m <;> first | rfl | cases ho

end Sys2Proof.Machine
end

