-- ==== Sys2Proof/Laws/Sends.lean ====
section
/-! SUPPORT. What a message sends on: quiet messages send only quiet ones, and leave the peer view, start-up control, the
ice assessment and most causes as they are. -/

namespace Sys2Proof.Machine

/-- The causes that a quiet message latches, ends or reports. -/
def Cause.quiet : Cause → Bool
  | .peerDropAhead | .breakerFail | .wrongSystem | .lineDead => true
  | _ => false

/-- The messages that other messages bring about when no gate, demand, view, block, frame or second report is among them. -/
def Msg.quiet : Msg → Bool
  | .lower _ src => src ≠ .isolate
  | .rise _ => true
  | .toDown _ _ => true
  | .toBidding _ _ => true
  | .toPreheat _ => true
  | .pressure _ => true
  | .breakerOpened _ => true
  | .admReturn _ _ => true
  | .admCheck => true
  | .admPanto _ _ _ => true
  | .admTest => true
  | .admYield => true
  | .admDropAhead => true
  | .admReport _ _ _ => false
  | .admHead _ _ => true
  | .startTest => true
  | .viewTake => false
  | .viewGate _ => false
  | .chgDemand _ _ => false
  | .chgGate _ => false
  | .chgPanto => true
  | .chgOpen => true
  | .chgLevel _ => true
  | .chgExits => true
  | .chgArrive => true
  | .chgSelector => true
  | .chgCleared c => c = .wrongSystem
  | .chgReopen => true
  | .latch c => c = .peerDropAhead
  | .endOf c => c = .lineDead
  | .recheck c => c = .peerDropAhead || c = .breakerFail || c = .wrongSystem
  | .metMark _ => false
  | .attRecompute => true
  | .heatClaim => true
  | .heatGrant => true
  | .heatLevel => true
  | .heatStep _ => false
  | .heatCleared => false
  | .arcWatch => true
  | .due => true
  | .block _ => false
  | .listenCheck => false

/-- Every message of a list is quiet. -/
def allQuiet (l : List Msg) : Bool := l.all Msg.quiet

@[simp] theorem allQuiet_nil : allQuiet [] = true := rfl
@[simp] theorem allQuiet_cons (m : Msg) (l : List Msg) : allQuiet (m :: l) = (m.quiet && allQuiet l) := rfl
@[simp] theorem allQuiet_append (l k : List Msg) : allQuiet (l ++ k) = (allQuiet l && allQuiet k) := List.all_append

theorem allQuiet_iff (l : List Msg) : allQuiet l = true ↔ ∀ k ∈ l, k.quiet = true := by simp [allQuiet]

theorem quiet_stateMsgs (p : Panto) (x y : PState) : allQuiet (stateMsgs p x y) = true := rfl

theorem quiet_driveEffect (s : State) (p : Panto) (d : Drive) (before rest : List Msg) (h : allQuiet before = true)
    (k : allQuiet rest = true) :
    allQuiet (driveEffect s p d before rest).now = true ∧ allQuiet (driveEffect s p d before rest).later = true := by
  unfold driveEffect
  dsimp only
  split
  · simp [h, k]
  · simp [h, k, quiet_stateMsgs, Msg.quiet]

theorem quiet_agreeMsgs (a b : Changeover) : allQuiet (agreeMsgs a b) = true := by
  unfold agreeMsgs; split <;> rfl

theorem quiet_selectorMsgs (a b : Changeover) : allQuiet (selectorMsgs a b) = true := by
  unfold selectorMsgs; split <;> rfl

theorem quiet_lowerRaised (s : State) : allQuiet (lowerRaised s) = true := by
  unfold lowerRaised
  simp only [List.filter]
  split <;> split <;> rfl

theorem quiet_chgEffect (s : State) (c : Changeover) (more : List Msg) (h : allQuiet more = true) :
    allQuiet (chgEffect s c more).now = true ∧ allQuiet (chgEffect s c more).later = true := by
  unfold chgEffect
  refine ⟨by simp [h, quiet_agreeMsgs, quiet_selectorMsgs], ?_⟩
  dsimp only
  split <;> rfl

theorem quiet_entryMsgs (s : State) (ph : Phase) (h : ph ≠ .mismatch) : allQuiet (entryMsgs s ph) = true := by
  cases ph <;> first | (exact absurd rfl h) | simp [entryMsgs, quiet_lowerRaised, Msg.quiet]

theorem quiet_enterPhase (s : State) (c : Changeover) (ph : Phase) (before : List Msg) (hp : ph ≠ .mismatch)
    (h : allQuiet before = true) :
    allQuiet (enterPhase s c ph before).now = true ∧ allQuiet (enterPhase s c ph before).later = true := by
  unfold enterPhase
  simp [h, quiet_agreeMsgs, quiet_selectorMsgs, quiet_entryMsgs s ph hp, Msg.quiet]

theorem quiet_levelLowering (x y : Nat) : allQuiet (levelLowering x y) = true := by
  unfold levelLowering; split
  · rfl
  · split <;> rfl

theorem quiet_attentionEffect (s : State) (a : Attention) (more : List Msg) (h : allQuiet more = true) :
    allQuiet (attentionEffect s a more).now = true ∧ allQuiet (attentionEffect s a more).later = true := by
  unfold attentionEffect
  dsimp only
  split
  · simp [h]
  · simp [h, quiet_levelLowering, Msg.quiet]

theorem quiet_clearingDelivery (c : Cause) (h : c.quiet = true) : allQuiet (clearingDelivery c) = true := by
  cases c <;> first | rfl | cases h

theorem quiet_outputMsgs (l : Load) (x y : LoadState) : allQuiet (outputMsgs l x y) = true := by
  unfold outputMsgs; split
  · rfl
  · split <;> rfl

theorem quiet_heatSpend (s : State) (x y : Nat) :
    allQuiet (heatSpend s x y).now = true ∧ allQuiet (heatSpend s x y).later = true := by
  unfold heatSpend
  simp [quiet_outputMsgs]

/-- Both lists of an effect are quiet. -/
def Effect.quiet (e : Effect) : Prop := allQuiet e.now = true ∧ allQuiet e.later = true

theorem quiet_none (s : State) : (Effect.none s).quiet := ⟨rfl, rfl⟩

theorem quiet_driveLower (s : State) (p : Panto) (src : LowerSource) : (driveLower s p src).quiet := by
  unfold driveLower
  dsimp only
  split
  · exact quiet_none s
  · split <;> (try split) <;> first
      | exact quiet_none s
      | exact quiet_driveEffect _ _ _ _ _ rfl rfl

theorem quiet_admReturn (s : State) (p : Panto) (o : POutcome) : (admReturn s p o).quiet := by
  unfold admReturn
  split
  · exact ⟨rfl, rfl⟩
  · exact quiet_none s

theorem quiet_admTest (s : State) : (admTest s).quiet := by
  unfold admTest admRise
  split
  · exact quiet_none s
  · split
    · split <;> exact ⟨rfl, rfl⟩
    · exact quiet_none s

theorem quiet_admWindowEnd (s : State) : (admWindowEnd s).quiet := by
  unfold admWindowEnd
  split
  · exact ⟨rfl, rfl⟩
  · exact quiet_none s

theorem quiet_admReport (s : State) (x y : PState) (t : Time) : (admReport s x y t).quiet := by
  unfold admReport
  split
  · exact quiet_none s
  · rename_i p _
    cases p <;> dsimp only <;> split <;> first | exact quiet_admWindowEnd _ | exact quiet_none s

theorem quiet_admHead (s : State) (p : Panto) (on : Bool) : (admHead s p on).quiet := by
  unfold admHead
  split
  · split <;> split <;> exact quiet_none _
  · exact quiet_none s

theorem quiet_chgExits (s : State) : (chgExits s).quiet := by
  unfold chgExits
  repeat' split
  all_goals first
    | exact quiet_none s
    | exact quiet_enterPhase _ _ _ _ (by decide) rfl

theorem quiet_chgPanto (s : State) : (chgPanto s).quiet := by
  unfold chgPanto
  dsimp only
  have h : allQuiet (if (s.chg.lineDead && !s.anyContact) = true then [Msg.endOf .lineDead] else []) = true := by
    split <;> rfl
  generalize (if (s.chg.lineDead && !s.anyContact) = true then [Msg.endOf .lineDead] else []) = msgs at h ⊢
  generalize (if (s.chg.lineDead && !s.anyContact) = true then { s.chg with lineDead := false } else s.chg) = c
  split
  · exact quiet_enterPhase _ _ .clear _ (by decide) h
  · exact ⟨h, rfl⟩

theorem quiet_lowers (l : List Panto) (src : LowerSource) (h : src ≠ .isolate) :
    allQuiet (l.map fun p => Msg.lower p src) = true := by
  induction l with
  | nil => rfl
  | cons p l ih => simp [ih, Msg.quiet, h]

theorem quiet_chgDemand (s : State) (a b : Bool) : (chgDemand s a b).quiet := by
  unfold chgDemand
  dsimp only
  have h : allQuiet (if (a && decide (s.view.demand ≠ .raise)) = true then lowerRaised s else []) = true := by
    split
    · exact quiet_lowerRaised s
    · rfl
  generalize (if (a && decide (s.view.demand ≠ .raise)) = true then lowerRaised s else []) = msgs at h ⊢
  generalize (if (a && decide (s.view.demand ≠ .raise) && decide (s.view.demand = .lower)) = true then
    s.chg.setRequest s.now false else s.chg) = c
  have e : ∀ c, (chgEffect s c msgs).quiet := fun c => quiet_chgEffect s c msgs h
  have g1 : (enterPhase s c .preparing msgs).quiet := quiet_enterPhase s c _ msgs (by decide) h
  have g2 : (enterPhase s c .selecting msgs).quiet := quiet_enterPhase s c _ msgs (by decide) h
  split <;> (repeat' split)
  all_goals first
    | with_reducible exact e _
    | with_reducible exact g1
    | with_reducible exact g2
    | exact ⟨by simp only [allQuiet_append, (e c).1]; rfl, (e c).2⟩
    | exact ⟨by simp only [allQuiet_append, (e c).1]; exact quiet_lowers _ _ (by decide), (e c).2⟩

theorem quiet_chgOpen (s : State) : (chgOpen s).quiet := quiet_chgEffect _ _ _ rfl

theorem quiet_chgArrive (s : State) : (chgArrive s).quiet := by
  unfold chgArrive
  dsimp only
  repeat' split
  all_goals first
    | exact quiet_none s
    | exact quiet_enterPhase _ _ _ _ (by decide) rfl
    | exact quiet_chgEffect _ _ _ rfl

theorem quiet_chgCleared (s : State) (c : Cause) : (chgCleared s c).quiet := by
  unfold chgCleared
  repeat' split
  all_goals first
    | exact quiet_none s
    | exact ⟨rfl, rfl⟩
    | exact quiet_enterPhase _ _ _ _ (by decide) rfl

theorem quiet_chgReopen (s : State) : (chgReopen s).quiet := by
  unfold chgReopen
  split
  · exact quiet_enterPhase _ _ _ _ (by decide) rfl
  · exact quiet_none s

theorem quiet_attClear (s : State) (c : Cause) (h : c.quiet = true) : (attClear s c).quiet :=
  quiet_attentionEffect _ _ _ (quiet_clearingDelivery c h)

/-- Every handling but that of a view, gate, demand, block, frame or second report sends quiet messages only. -/
theorem quiet_handle (s : State) (m : Msg) (h : m.quiet = true) : (handle s m).quiet := by
  cases m with
  | lower p src => exact quiet_driveLower s p src
  | rise p =>
    simp only [handle, driveRise]
    split
    · exact quiet_driveEffect _ _ _ _ _ rfl rfl
    · exact quiet_none s
  | toDown p o =>
    simp only [handle, driveToDown]
    split
    · exact quiet_driveEffect _ _ _ _ _ rfl rfl
    · exact quiet_none s
  | toBidding p x =>
    simp only [handle, driveToBidding]
    split
    · exact quiet_driveEffect _ _ _ _ _ rfl rfl
    · exact quiet_none s
  | toPreheat p =>
    simp only [handle, driveToPreheat]
    split
    · exact quiet_driveEffect _ _ _ _ _ rfl rfl
    · exact quiet_none s
  | pressure p => exact quiet_driveEffect _ _ _ _ _ rfl rfl
  | breakerOpened p =>
    simp only [handle, driveBreakerOpened]
    split
    · exact quiet_driveEffect _ _ _ _ _ rfl rfl
    · exact quiet_none s
  | admReturn p o => exact quiet_admReturn s p o
  | admCheck =>
    simp only [handle, admCheck]
    repeat' split
    all_goals first | exact quiet_none s | exact quiet_admReturn _ _ _
  | admPanto p old new =>
    simp only [handle, admPanto]
    refine ⟨?_, rfl⟩
    dsimp only
    split <;> split <;> rfl
  | admTest => exact quiet_admTest s
  | admYield => exact ⟨quiet_lowers _ _ (by decide), rfl⟩
  | admDropAhead =>
    simp only [handle, admDropAhead]
    refine ⟨?_, rfl⟩
    dsimp only
    split <;> rfl
  | admReport x y t => cases h
  | admHead p on => exact quiet_admHead s p on
  | startTest =>
    simp only [handle, admStart]
    repeat' split
    all_goals exact quiet_none s
  | viewTake => cases h
  | viewGate r => cases h
  | chgDemand a b => cases h
  | chgGate r => cases h
  | chgPanto => exact quiet_chgPanto s
  | chgOpen => exact quiet_chgOpen s
  | chgLevel n =>
    simp only [handle, chgLevel]
    split
    · exact quiet_chgOpen s
    · exact quiet_none s
  | chgExits => exact quiet_chgExits s
  | chgArrive => exact quiet_chgArrive s
  | chgSelector =>
    simp only [handle, chgSelector]
    refine ⟨?_, rfl⟩
    simp [quiet_lowers, Msg.quiet]
  | chgCleared c => exact quiet_chgCleared s c
  | chgReopen => exact quiet_chgReopen s
  | latch c => exact quiet_attentionEffect _ _ _ rfl
  | endOf c =>
    simp only [handle, attEnd]
    simp only [Msg.quiet, decide_eq_true_eq] at h
    split
    · exact quiet_attClear s c (by rw [h]; rfl)
    · exact quiet_none s
  | recheck c =>
    simp only [handle, attRecheck]
    simp only [Msg.quiet, Bool.or_eq_true, decide_eq_true_eq] at h
    split
    · exact quiet_attClear s c (by rcases h with (h | h) | h <;> rw [h] <;> rfl)
    · exact quiet_none s
  | metMark c => cases h
  | attRecompute => exact quiet_attentionEffect _ _ _ rfl
  | heatClaim => exact quiet_heatSpend _ _ _
  | heatGrant => exact quiet_heatSpend _ _ _
  | heatLevel => exact quiet_heatSpend _ _ _
  | heatStep a => cases h
  | heatCleared => cases h
  | arcWatch => exact quiet_none _
  | due => exact quiet_none _
  | block b => cases h
  | listenCheck => cases h

/-! ## What quiet messages keep -/

/-- A property that quiet handlings keep holds after quiet messages. -/
theorem settle_quiet (P : State → Prop) (hstep : ∀ s m, P s → m.quiet = true → P (handle s m).st)
    (hfl : ∀ s l, P s → P (s.withInFlight l)) (n : Nat) (msgs : List Msg) (s : State) (hs : P s)
    (hq : allQuiet msgs = true) : P (settle n msgs s) :=
  settle_induct P (fun m => m.quiet = true)
    (fun s m h q => ⟨hstep s m h q, (allQuiet_iff _).mp (quiet_handle s m q).1, (allQuiet_iff _).mp (quiet_handle s m q).2⟩)
    hfl n msgs s hs ((allQuiet_iff _).mp hq)

/-- What a quiet message brings about, and quiet messages keep, holds once nothing is left over. -/
theorem settle_quiet_done (P : State → Prop) (m : Msg) (hdo : ∀ s, P (handle s m).st)
    (hstep : ∀ s m, P s → m.quiet = true → P (handle s m).st) (hfl : ∀ s l, P s → P (s.withInFlight l)) (n : Nat)
    (msgs : List Msg) (s : State) (hm : m ∈ msgs) (hq : allQuiet msgs = true)
    (hend : (settle n msgs s).inFlight = []) : P (settle n msgs s) :=
  settle_done P (fun m => m.quiet = true) m hdo hstep
    (fun s k q => ⟨(allQuiet_iff _).mp (quiet_handle s k q).1, (allQuiet_iff _).mp (quiet_handle s k q).2⟩)
    hfl n msgs s hm ((allQuiet_iff _).mp hq) hend

theorem handle_quiet_view (s : State) (m : Msg) (h : m.quiet = true) : (handle s m).st.view = s.view :=
  handle_view s m (by cases m <;> simp_all [Msg.owner, Msg.quiet])

theorem handle_quiet_start (s : State) (m : Msg) (h : m.quiet = true) : (handle s m).st.start = s.start :=
  handle_start s m (by cases m <;> simp_all [Msg.owner, Msg.quiet])

theorem settle_quiet_view (n : Nat) (msgs : List Msg) (s : State) (hq : allQuiet msgs = true) :
    (settle n msgs s).view = s.view :=
  settle_quiet (fun t => t.view = s.view) (fun t m h q => (handle_quiet_view t m q).trans h) (fun _ _ h => h) n msgs s rfl hq

theorem settle_quiet_start (n : Nat) (msgs : List Msg) (s : State) (hq : allQuiet msgs = true) :
    (settle n msgs s).start = s.start :=
  settle_quiet (fun t => t.start = s.start) (fun t m h q => (handle_quiet_start t m q).trans h) (fun _ _ h => h) n msgs s
    rfl hq

end Sys2Proof.Machine
end

