-- ==== Sys2Proof/Laws/Causes.lean ====
section
/-! SUPPORT. Sets of causes: what is in a set after an addition and a removal; the detected set; what quiet messages leave of
the attention unit and of the ice assessment. -/

namespace Sys2Proof.Machine

theorem Cause.number_inj {a b : Cause} (h : a.number = b.number) : a = b := by
  revert h
  cases a <;> cases b <;> simp [Cause.number]

theorem Cause.number_pos (c : Cause) : 1 ≤ c.number := by cases c <;> decide
theorem Cause.number_le (c : Cause) : c.number ≤ 23 := by cases c <;> decide
theorem Cause.mem_all (c : Cause) : c ∈ Cause.all := by cases c <;> simp [Cause.all]

theorem Cause.getLsbD_bit (c e : Cause) : c.bit.getLsbD (e.number - 1) = decide (e = c) := by
  have h1 := c.number_pos
  have h2 := e.number_pos
  have h3 := e.number_le
  simp only [Cause.bit, BitVec.getLsbD_twoPow]
  by_cases h : e = c
  · subst h
    simp
    omega
  · have : c.number ≠ e.number := fun k => h (Cause.number_inj k.symm)
    simp [h]
    omega

@[simp] theorem has_zero (c : Cause) : CauseSet.has 0 c = false := by simp [CauseSet.has]

@[simp] theorem has_add (x : CauseSet) (c e : Cause) :
    CauseSet.has (CauseSet.add x c) e = (CauseSet.has x e || decide (e = c)) := by
  simp [CauseSet.has, CauseSet.add, Cause.getLsbD_bit]

@[simp] theorem has_drop (x : CauseSet) (c e : Cause) :
    CauseSet.has (CauseSet.drop x c) e = (CauseSet.has x e && !decide (e = c)) := by
  have h3 := e.number_le
  simp only [CauseSet.has, CauseSet.drop, BitVec.getLsbD_and, BitVec.getLsbD_not, Cause.getLsbD_bit]
  have : decide (e.number - 1 < 24) = true := by simp; omega
  simp [this]

theorem has_foldl (l : List Cause) (x : CauseSet) (e : Cause) :
    CauseSet.has (l.foldl CauseSet.add x) e = (CauseSet.has x e || decide (e ∈ l)) := by
  induction l generalizing x with
  | nil => simp
  | cons c l ih => simp [ih, Bool.or_assoc]

@[simp] theorem has_ofList (l : List Cause) (e : Cause) : CauseSet.has (CauseSet.ofList l) e = decide (e ∈ l) := by
  rw [CauseSet.ofList, has_foldl, has_zero, Bool.false_or]

/-- The detected set after a recomputation holds the detected causes (R143). -/
theorem has_recomputed (a : Attention) (enables : CauseSet) (ph : Phase) (c : Cause) :
    CauseSet.has (a.recomputed enables ph).detected c = isDetected a.latched enables ph c := by
  simp [Attention.recomputed, detectedCauses, Cause.mem_all]

@[simp] theorem recomputed_latched (a : Attention) (enables : CauseSet) (ph : Phase) :
    (a.recomputed enables ph).latched = a.latched := rfl
@[simp] theorem recomputed_pending (a : Attention) (enables : CauseSet) (ph : Phase) :
    (a.recomputed enables ph).pending = a.pending := rfl
@[simp] theorem recomputed_met (a : Attention) (enables : CauseSet) (ph : Phase) :
    (a.recomputed enables ph).met = a.met := rfl

/-! ## What quiet messages leave -/

theorem handle_quiet_met (s : State) (m : Msg) (h : m.quiet = true) : (handle s m).st.att.met = s.att.met := by
  by_cases k : m.owner = .attention
  · cases m <;> simp [Msg.owner] at k <;> simp [Msg.quiet] at h
    · subst h; simp [handle, attLatch, attentionEffect_st, Cause.hasMet]
    · simp only [handle, attEnd]; split <;> simp [attClear, attentionEffect_st, Effect.none]
    · simp only [handle, attRecheck]; split <;> simp [attClear, attentionEffect_st, Effect.none]
    · simp [handle, attRecompute, attentionEffect_st]
  · rw [handle_att s m k]

theorem handle_quiet_latched (s : State) (m : Msg) (h : m.quiet = true) (c : Cause) (hc : c.quiet = false) :
    CauseSet.has (handle s m).st.att.latched c = CauseSet.has s.att.latched c := by
  by_cases k : m.owner = .attention
  · cases m <;> simp [Msg.owner] at k <;> simp [Msg.quiet] at h
    · subst h; simp [handle, attLatch, attentionEffect_st]
      intro k; subst k; cases hc
    · subst h
      simp only [handle, attEnd]; split <;> simp [attClear, attentionEffect_st, Effect.none]
      intro _ k; subst k; cases hc
    · simp only [handle, attRecheck]; split <;> simp [attClear, attentionEffect_st, Effect.none]
      intro _ k; subst k
      rcases h with (h | h) | h <;> (subst h; cases hc)
    · simp [handle, attRecompute, attentionEffect_st]
  · rw [handle_att s m k]

theorem settle_quiet_met (n : Nat) (msgs : List Msg) (s : State) (hq : allQuiet msgs = true) :
    (settle n msgs s).att.met = s.att.met :=
  settle_quiet (fun t => t.att.met = s.att.met) (fun t m h q => (handle_quiet_met t m q).trans h) (fun _ _ h => h) n msgs s
    rfl hq

theorem settle_quiet_latched (n : Nat) (msgs : List Msg) (s : State) (hq : allQuiet msgs = true) (c : Cause)
    (hc : c.quiet = false) : CauseSet.has (settle n msgs s).att.latched c = CauseSet.has s.att.latched c :=
  settle_quiet (fun t => CauseSet.has t.att.latched c = CauseSet.has s.att.latched c)
    (fun t m h q => (handle_quiet_latched t m q c hc).trans h) (fun _ _ h => h) n msgs s rfl hq

/-- A cause latched among quiet messages is latched once nothing is left over (R140). -/
theorem settle_latched (n : Nat) (msgs : List Msg) (s : State) (c : Cause) (hc : c.quiet = false)
    (hq : ∀ k ∈ msgs, k.quiet = true ∨ k = .latch c) (hm : Msg.latch c ∈ msgs)
    (hend : (settle n msgs s).inFlight = []) : CauseSet.has (settle n msgs s).att.latched c = true := by
  have hs : ∀ t : State, CauseSet.has (handle t (.latch c)).st.att.latched c = true := fun t => by
    simp [handle, attLatch, attentionEffect_st]
  refine settle_done (fun t => CauseSet.has t.att.latched c = true) (fun m => m.quiet = true ∨ m = .latch c) (.latch c) hs
    ?_ ?_ (fun _ _ h => h) n msgs s hm hq hend
  · rintro t k h (q | rfl)
    · rw [handle_quiet_latched t k q c hc]; exact h
    · exact hs t
  · rintro t k (q | rfl)
    · exact ⟨fun j hj => .inl ((allQuiet_iff _).mp (quiet_handle t k q).1 j hj),
        fun j hj => .inl ((allQuiet_iff _).mp (quiet_handle t k q).2 j hj)⟩
    · have e : (handle t (.latch c)).quiet := quiet_attentionEffect _ _ _ rfl
      exact ⟨fun j hj => .inl ((allQuiet_iff _).mp e.1 j hj), fun j hj => .inl ((allQuiet_iff _).mp e.2 j hj)⟩

/-- A cause that is latched first stays latched through quiet messages, even where the bound is reached. -/
theorem latched_after_latch (n : Nat) (s : State) (c : Cause) (rest : List Msg) (hc : c.quiet = false)
    (hq : allQuiet rest = true) : CauseSet.has (settle (n + 1) (.latch c :: rest) s).att.latched c = true := by
  rw [settle_cons, settle_quiet_latched _ _ _ ?_ _ hc]
  · simp [handle, attLatch, attentionEffect_st]
  · simp only [handle, attLatch, allQuiet_append, hq]
    rw [(quiet_attentionEffect _ _ _ rfl).1, (quiet_attentionEffect _ _ _ rfl).2]
    rfl

/-- The ice assessment: index, saturation flag and level. -/
def Heating.assessment (h : Heating) : Nat × Bool × IceLevel := (h.index, h.saturated, h.level)

theorem handle_quiet_assessment (s : State) (m : Msg) (h : m.quiet = true) :
    (handle s m).st.heat.assessment = s.heat.assessment := by
  by_cases k : m.owner = .heating
  · cases m <;> simp [Msg.owner] at k <;> simp [Msg.quiet] at h <;> rfl
  · rw [handle_heat s m k]

theorem settle_quiet_assessment (n : Nat) (msgs : List Msg) (s : State) (hq : allQuiet msgs = true) :
    (settle n msgs s).heat.assessment = s.heat.assessment :=
  settle_quiet (fun t => t.heat.assessment = s.heat.assessment) (fun t m h q => (handle_quiet_assessment t m q).trans h)
    (fun _ _ h => h) n msgs s rfl hq

end Sys2Proof.Machine
end

