-- ==== Sys2Proof/Laws/Commands.lean ====
section
/-! SUPPORT. Every command as what its own block does with it, before the messages are taken. -/

namespace Sys2Proof.Machine

/-- What the block a command arrives at does with it. -/
def effectOf (s : State) : Instr → Effect
  | .powerOn t pins x => powerOn (s.advance t) pins x
  | .legalTransition t p up => driveLegal (s.advance t) p up
  | .illegalTransition t p => driveIllegal (s.advance t) p
  | .encoderQuietExpiry p => driveQuiet s p
  | .stillnessSpanEnd p => driveStill s p
  | .restSwitchClosure t p => driveRestClose (s.advance t) p
  | .restSwitchOpening t p => driveRestOpen (s.advance t) p
  | .wireLossInterval p => driveWireLoss s p
  | .pressureValue t p v => drivePressureValue (s.advance t) p v
  | .referenceTargetExpiry p => driveReference s p
  | .autoDrop p => driveAutoDrop s p
  | .raiseTimeout p => driveRaiseTimeout s p
  | .breakerWaitExpiry p => driveWaitExpiry s p
  | .lowerTimerExpiry p => driveLowerTimeout s p
  | .dropTimerExpiry p => driveDropTimeout s p
  | .cellWriteComplete t p readBack => driveCellComplete (s.advance t) p readBack
  | .unlockEnableExpiry => unlockExpiry s
  | .lineSample t v => senseSample (s.advance t) v
  | .gateEnd => senseGateEnd s
  | .statusRecord t frame => portReceive (s.advance t) frame
  | .duplicateRecord t frame => portReceive (s.advance t) frame
  | .entryStale address => viewEntryStale s address
  | .entryRemoval address => viewEntryRemoval s address
  | .duplicateExpiry => viewDuplicateExpiry s
  | .consistRecord t frame => portReceive (s.advance t) frame
  | .slotExpiry e => viewSlotExpiry s e
  | .noCabStale => viewNoCabStale s
  | .noCabLost => viewNoCabLost s
  | .windowExpiry => admWindowExpiry s
  | .bidTimeout => admBidTimeout s
  | .holdoffExpiry => admHoldoffExpiry s
  | .heatedTimeReached => admHeatedReached s
  | .preheatTimeout => admPreheatTimeout s
  | .transitTimeout => chgTransitTimeout s
  | .retargetPauseEnd => chgPauseEnd s
  | .endSwitchChange t acClosed dcClosed => chgEndSwitch (s.advance t) acClosed dcClosed
  | .breakerFeedbackChange t closed => chgFeedback (s.advance t) closed
  | .breakerDisagreeExpiry => chgDisagreeExpiry s
  | .currentSample t p v => arcSample (s.advance t) p v
  | .assessmentExpiry => arcAssess s
  | .weatherReading t r => .none ((s.advance t).withHeat ((s.advance t).heat.reading r))
  | .pwmPeriodExpiry l => heatPeriod s l
  | .pwmOnPartEnd l => heatOnPartEnd s l
  | .heaterFeedbackChange t l current => heatFeedback (s.advance t) l current
  | .heaterDisagreeExpiry l => heatDisagree s l
  | .ackCause t frame => portReceive (s.advance t) frame
  | .isolate t frame => portReceive (s.advance t) frame
  | .restore t frame => portReceive (s.advance t) frame
  | .unlockEnable t frame => portReceive (s.advance t) frame
  | .unlock t frame => portReceive (s.advance t) frame
  | .clearArcs t frame => portReceive (s.advance t) frame
  | .restart t frame => portReceive (s.advance t) frame
  | .cadenceExpiry => portCadence s
  | .spacingExpiry => portSpacing s
  | .attemptStart t bits => portAttempt (s.advance (t + Config.bitTime * bits))
  | .collision t bit => portCollision (s.advance t) bit
  | .success t => portSuccess (s.advance t)
  | .lineActiveTimeout t => portActiveTimeout (s.advance t)
  | .lineIdle t => portIdle (s.advance t)
  | .listenExpiry => startListenExpiry s
  | .adoptTimeout => startAdoptTimeout s
  | .powerOnResetAsserted t => .none (powerDown (s.advance t))
  | .frameDiscarded t frame ending => portDiscarded (s.advance t) frame ending

/-- The release of the power-on reset acts in every state. -/
theorem exec_powerOn (t : Time) (pins : StrapPins) (x : InputLevels) (s : State) :
    exec (.powerOn t pins x) s = .next (effectOf s (.powerOn t pins x)).run := rfl

/-- Every other command acts while the power-on reset is not held. -/
theorem exec_eq (c : Instr) (s : State) (h : ∀ t pins x, c ≠ .powerOn t pins x) :
    exec c s = .next (if s.held then s else (effectOf s c).run) := by
  cases c <;> first | rfl | exact absurd rfl (h _ _ _)

theorem exec_up (c : Instr) (s : State) (h : s.held = false) : exec c s = .next (effectOf s c).run := by
  by_cases k : ∃ t pins x, c = .powerOn t pins x
  · obtain ⟨t, pins, x, rfl⟩ := k
    rfl
  · rw [exec_eq c s fun t pins x e => k ⟨t, pins, x, e⟩, h]
    rfl

/-- A next state of a command that is not of the power-on reset: the state itself while the reset is held, else what the
command's block and everything that follows come to. -/
theorem exec_next {c : Instr} {s u : State} (hc : c.isPower = false) (h : exec c s = .next u) :
    s.held = true ∧ u = s ∨ s.held = false ∧ u = (effectOf s c).run := by
  have h0 : ∀ t pins x, c ≠ .powerOn t pins x := by rintro t pins x rfl; cases hc
  rw [exec_eq c s h0] at h
  injection h with h
  subst h
  cases s.held <;> simp

@[simp] theorem advance_now (s : State) (t : Time) : (s.advance t).now = max s.now t := rfl
@[simp] theorem advance_drive (s : State) (t : Time) (p : Panto) : (s.advance t).drive p = s.drive p := by cases p <;> rfl

/-- From a settled state, a command comes to its block's effect and the messages that effect sends. -/
theorem run_settled (e : Effect) (h : e.st.settled) : e.run = settle Config.settleBound (e.now ++ e.later) e.st := by
  have h' : e.st.inFlight = [] := h
  simp [Effect.run, h']

/-- A command whose block sends nothing leaves what the block wrote. -/
theorem exec_quiet {c : Instr} {s t : State} (hs : s.held = false) (h : effectOf s c = .none t) (hi : t.settled) :
    exec c s = .next t := by
  rw [exec_up _ _ hs, h, run_none _ (show t.inFlight = [] from hi)]

/-- What a command keeps, where its block keeps it. -/
theorem exec_keeps (P : State → Prop) {c : Instr} {s u : State} (hc : c.isPower = false) (h : exec c s = .next u)
    (hs : P s) (hk : P (effectOf s c).st) (hstep : ∀ s m, P s → P (handle s m).st)
    (hfl : ∀ s l, P s → P (s.withInFlight l)) : P u := by
  rcases exec_next hc h with ⟨-, rfl⟩ | ⟨-, rfl⟩
  · exact hs
  · exact run_keeps P hstep hfl _ hk

end Sys2Proof.Machine
end

