-- ==== Sys2Proof/Laws/CommandBlocks.lean ====
section
/-! SUPPORT. Which block a command's own handling writes: every command that brings no frame and is not of the power-on reset
writes the one block it arrives at, and the clock. -/

namespace Sys2Proof.Machine

/-- The block a command arrives at; none for the commands of the power-on reset, and for those that bring a frame. -/
inductive Arrival where
  | power | frame | sense
  | block (o : Owner)
  deriving DecidableEq, Repr

def arrivalOf : Instr → Arrival
  | .powerOn _ _ _ => .power
  | .powerOnResetAsserted _ => .power
  | .legalTransition _ _ _ => .block .drive
  | .illegalTransition _ _ => .block .drive
  | .encoderQuietExpiry _ => .block .drive
  | .stillnessSpanEnd _ => .block .drive
  | .restSwitchClosure _ _ => .block .drive
  | .restSwitchOpening _ _ => .block .drive
  | .wireLossInterval _ => .block .drive
  | .pressureValue _ _ _ => .block .drive
  | .referenceTargetExpiry _ => .block .drive
  | .autoDrop _ => .block .drive
  | .raiseTimeout _ => .block .drive
  | .breakerWaitExpiry _ => .block .drive
  | .lowerTimerExpiry _ => .block .drive
  | .dropTimerExpiry _ => .block .drive
  | .cellWriteComplete _ _ _ => .block .drive
  | .unlockEnableExpiry => .block .drive
  | .lineSample _ _ => .sense
  | .gateEnd => .sense
  | .statusRecord _ _ => .frame
  | .duplicateRecord _ _ => .frame
  | .entryStale _ => .block .view
  | .entryRemoval _ => .block .view
  | .duplicateExpiry => .block .view
  | .consistRecord _ _ => .frame
  | .slotExpiry _ => .block .view
  | .noCabStale => .block .view
  | .noCabLost => .block .view
  | .windowExpiry => .block .admission
  | .bidTimeout => .block .admission
  | .holdoffExpiry => .block .admission
  | .heatedTimeReached => .block .admission
  | .preheatTimeout => .block .admission
  | .transitTimeout => .block .changeover
  | .retargetPauseEnd => .block .changeover
  | .endSwitchChange _ _ _ => .block .changeover
  | .breakerFeedbackChange _ _ => .block .changeover
  | .breakerDisagreeExpiry => .block .changeover
  | .currentSample _ _ _ => .block .arc
  | .assessmentExpiry => .block .arc
  | .weatherReading _ _ => .block .heating
  | .pwmPeriodExpiry _ => .block .heating
  | .pwmOnPartEnd _ => .block .heating
  | .heaterFeedbackChange _ _ _ => .block .heating
  | .heaterDisagreeExpiry _ => .block .heating
  | .ackCause _ _ => .frame
  | .isolate _ _ => .frame
  | .restore _ _ => .frame
  | .unlockEnable _ _ => .frame
  | .unlock _ _ => .frame
  | .clearArcs _ _ => .frame
  | .restart _ _ => .frame
  | .cadenceExpiry => .block .port
  | .spacingExpiry => .block .port
  | .attemptStart _ _ => .block .port
  | .collision _ _ => .block .port
  | .success _ => .block .port
  | .lineActiveTimeout _ => .block .port
  | .lineIdle _ => .block .port
  | .listenExpiry => .block .startUp
  | .adoptTimeout => .block .startUp
  | .frameDiscarded _ _ _ => .frame

/-- `t` is `s` but for the clock and one block; `o` says which block may differ. -/
structure Only (o : Owner) (s t : State) : Prop where
  held : t.held = s.held
  free : t.free = s.free
  pending : t.pending = s.pending
  inFlight : t.inFlight = s.inFlight
  sense : t.sense = s.sense
  unlock : o ≠ .drive → t.unlock = s.unlock
  drive1 : o ≠ .drive → t.drive1 = s.drive1
  drive2 : o ≠ .drive → t.drive2 = s.drive2
  adm : o ≠ .admission → t.adm = s.adm
  view : o ≠ .view → t.view = s.view
  chg : o ≠ .changeover → t.chg = s.chg
  att : o ≠ .attention → t.att = s.att
  heat : o ≠ .heating → t.heat = s.heat
  arc : o ≠ .arc → t.arc = s.arc
  port : o ≠ .port → o ≠ .startUp → t.port = s.port
  start : o ≠ .startUp → t.start = s.start

theorem Only.refl (o : Owner) (s : State) : Only o s s := by constructor <;> intros <;> rfl

theorem Only.trans {o : Owner} {a b c : State} (h : Only o a b) (k : Only o b c) : Only o a c := by
  constructor
  · exact k.held.trans h.held
  · exact k.free.trans h.free
  · exact k.pending.trans h.pending
  · exact k.inFlight.trans h.inFlight
  · exact k.sense.trans h.sense
  · exact fun x => (k.unlock x).trans (h.unlock x)
  · exact fun x => (k.drive1 x).trans (h.drive1 x)
  · exact fun x => (k.drive2 x).trans (h.drive2 x)
  · exact fun x => (k.adm x).trans (h.adm x)
  · exact fun x => (k.view x).trans (h.view x)
  · exact fun x => (k.chg x).trans (h.chg x)
  · exact fun x => (k.att x).trans (h.att x)
  · exact fun x => (k.heat x).trans (h.heat x)
  · exact fun x => (k.arc x).trans (h.arc x)
  · exact fun x y => (k.port x y).trans (h.port x y)
  · exact fun x => (k.start x).trans (h.start x)

theorem only_advance (o : Owner) (s : State) (t : Time) : Only o s (s.advance t) := by constructor <;> intros <;> rfl

theorem only_expire {o : Owner} {s : State} {timer : Timer} {k : State → Effect}
    (h : ∀ t, Only o (s.advance t) (k (s.advance t)).st) : Only o s (s.expire timer k).st := by
  unfold State.expire
  split
  · exact Only.refl o s
  · exact (only_advance o s _).trans (h _)

theorem only_drive (s : State) (p : Panto) (d : Drive) : Only .drive s (s.setDrive p d) := by
  cases p <;> constructor <;> intros <;> first | rfl | contradiction

theorem only_driveEff (s : State) (p : Panto) (d : Drive) (before rest : List Msg) :
    Only .drive s (driveEffect s p d before rest).st := by
  rw [driveEffect_st]
  exact only_drive s p _

theorem only_with_adm (s : State) (x : Admission) : Only .admission s (s.withAdm x) := by
  constructor <;> intros <;> first | rfl | contradiction
theorem only_with_view (s : State) (x : PeerView) : Only .view s (s.withView x) := by
  constructor <;> intros <;> first | rfl | contradiction
theorem only_with_chg (s : State) (x : Changeover) : Only .changeover s (s.withChg x) := by
  constructor <;> intros <;> first | rfl | contradiction
theorem only_with_att (s : State) (x : Attention) : Only .attention s (s.withAtt x) := by
  constructor <;> intros <;> first | rfl | contradiction
theorem only_with_heat (s : State) (x : Heating) : Only .heating s (s.withHeat x) := by
  constructor <;> intros <;> first | rfl | contradiction
theorem only_with_arc (s : State) (x : ArcMonitor) : Only .arc s (s.withArc x) := by
  constructor <;> intros <;> first | rfl | contradiction
theorem only_with_port (s : State) (x : Port) : Only .port s (s.withPort x) := by
  constructor <;> intros <;> first | rfl | contradiction
theorem only_with_start (s : State) (x : StartUp) : Only .startUp s (s.withStart x) := by
  constructor <;> intros <;> first | rfl | contradiction
theorem only_with_unlock (s : State) (x : Timer) : Only .drive s (s.withUnlock x) := by
  constructor <;> intros <;> first | rfl | contradiction

/-! ## Drive -/

theorem only_driveLegal (s : State) (p : Panto) (up : Bool) : Only .drive s (driveLegal s p up).st := by
  unfold driveLegal
  dsimp only
  repeat' split
  all_goals first | exact Only.refl _ _ | exact only_driveEff _ _ _ _ _

theorem only_driveStill (s : State) (p : Panto) : Only .drive s (driveStill s p).st := by
  unfold driveStill
  split
  · refine only_expire fun t => ?_
    split
    · exact only_driveEff _ _ _ _ _
    · exact Only.refl _ _
  · exact Only.refl _ _

theorem only_driveIllegal (s : State) (p : Panto) : Only .drive s (driveIllegal s p).st := by
  unfold driveIllegal
  dsimp only
  split
  · exact Only.refl _ _
  · exact only_driveEff _ _ _ _ _

theorem only_driveQuiet (s : State) (p : Panto) : Only .drive s (driveQuiet s p).st :=
  only_expire fun _ => only_driveEff _ _ _ _ _

theorem only_driveRestClose (s : State) (p : Panto) : Only .drive s (driveRestClose s p).st := by
  unfold driveRestClose
  dsimp only
  repeat' split
  all_goals first | exact Only.refl _ _ | exact only_driveEff _ _ _ _ _

theorem only_driveRestOpen (s : State) (p : Panto) : Only .drive s (driveRestOpen s p).st := by
  unfold driveRestOpen
  split
  · exact only_driveEff _ _ _ _ _
  · exact Only.refl _ _

theorem only_driveWireLoss (s : State) (p : Panto) : Only .drive s (driveWireLoss s p).st := by
  unfold driveWireLoss
  split
  · exact only_expire fun _ => only_driveEff _ _ _ _ _
  · exact Only.refl _ _

theorem only_drivePressureValue (s : State) (p : Panto) (v : Option Nat) :
    Only .drive s (drivePressureValue s p v).st := by
  unfold drivePressureValue
  dsimp only
  repeat' split
  all_goals first | exact Only.refl _ _ | exact only_driveEff _ _ _ _ _

theorem only_driveReference (s : State) (p : Panto) : Only .drive s (driveReference s p).st :=
  only_expire fun _ => only_driveEff _ _ _ _ _

theorem only_driveAutoDrop (s : State) (p : Panto) : Only .drive s (driveAutoDrop s p).st := by
  unfold driveAutoDrop
  split
  · exact only_expire fun _ => only_driveEff _ _ _ _ _
  · exact Only.refl _ _

theorem only_driveRaiseTimeout (s : State) (p : Panto) : Only .drive s (driveRaiseTimeout s p).st := by
  unfold driveRaiseTimeout
  split
  · exact only_expire fun _ => only_driveEff _ _ _ _ _
  · exact Only.refl _ _

theorem only_driveWaitExpiry (s : State) (p : Panto) : Only .drive s (driveWaitExpiry s p).st := by
  unfold driveWaitExpiry
  split
  · exact only_expire fun _ => only_driveEff _ _ _ _ _
  · exact Only.refl _ _

theorem only_driveLowerTimeout (s : State) (p : Panto) : Only .drive s (driveLowerTimeout s p).st := by
  unfold driveLowerTimeout
  split
  · exact only_expire fun _ => only_driveEff _ _ _ _ _
  · exact Only.refl _ _

theorem only_driveDropTimeout (s : State) (p : Panto) : Only .drive s (driveDropTimeout s p).st := by
  unfold driveDropTimeout
  split
  · exact only_expire fun _ => only_driveEff _ _ _ _ _
  · exact Only.refl _ _

theorem only_driveCellComplete (s : State) (p : Panto) (v : CellValue) : Only .drive s (driveCellComplete s p v).st := by
  unfold driveCellComplete
  split
  · exact Only.refl _ _
  · exact only_driveEff _ _ _ _ _

theorem only_unlockExpiry (s : State) : Only .drive s (unlockExpiry s).st := only_expire fun _ => only_with_unlock _ _

/-! ## Peer view -/

theorem only_viewEntryStale (s : State) (a : Nat) : Only .view s (viewEntryStale s a).st := by
  unfold viewEntryStale
  split
  · exact Only.refl _ _
  · split
    · exact Only.refl _ _
    · exact only_expire fun _ => only_with_view _ _

theorem only_viewEntryRemoval (s : State) (a : Nat) : Only .view s (viewEntryRemoval s a).st := by
  unfold viewEntryRemoval
  split
  · exact Only.refl _ _
  · exact only_expire fun _ => only_with_view _ _

theorem only_viewSlotExpiry (s : State) (e : CabEnd) : Only .view s (viewSlotExpiry s e).st := by
  unfold viewSlotExpiry
  split
  · exact only_expire fun _ => only_with_view _ _
  · exact Only.refl _ _

theorem only_viewNoCabStale (s : State) : Only .view s (viewNoCabStale s).st := by
  unfold viewNoCabStale
  split
  · exact only_expire fun _ => only_with_view _ _
  · exact Only.refl _ _

theorem only_viewNoCabLost (s : State) : Only .view s (viewNoCabLost s).st := by
  unfold viewNoCabLost
  split
  · exact only_expire fun _ => only_with_view _ _
  · exact Only.refl _ _

/-! ## Admission unit -/

theorem only_return (s : State) (p : Panto) (o : POutcome) : Only .admission s (admReturn s p o).st := by
  unfold admReturn
  split
  · exact only_with_adm _ _
  · exact Only.refl _ _

theorem only_windowEnd (s : State) : Only .admission s (admWindowEnd s).st := by
  unfold admWindowEnd
  split
  · exact only_with_adm _ _
  · exact Only.refl _ _

theorem only_windowExpiry (s : State) : Only .admission s (admWindowExpiry s).st := by
  unfold admWindowExpiry
  exact only_expire fun _ => (only_with_adm _ _).trans (only_windowEnd _)

theorem only_bidTimeout (s : State) : Only .admission s (admBidTimeout s).st := by
  unfold admBidTimeout
  refine only_expire fun t => ?_
  split
  · exact Only.refl _ _
  · split
    · exact only_return _ _ _
    · exact Only.refl _ _

theorem only_heatedReached (s : State) : Only .admission s (admHeatedReached s).st := by
  unfold admHeatedReached
  split
  · exact Only.refl _ _
  · split
    · exact only_with_adm _ _
    · exact only_expire fun _ => only_with_adm _ _

theorem only_preheatTimeout (s : State) : Only .admission s (admPreheatTimeout s).st := by
  unfold admPreheatTimeout
  split
  · exact Only.refl _ _
  · exact only_expire fun _ => only_with_adm _ _

/-! ## Changeover controller -/

theorem only_enterPhase (s : State) (c : Changeover) (ph : Phase) (before : List Msg) :
    Only .changeover s (enterPhase s c ph before).st := only_with_chg _ _

theorem only_transitTimeout (s : State) : Only .changeover s (chgTransitTimeout s).st := by
  unfold chgTransitTimeout
  refine only_expire fun t => ?_
  dsimp only
  split
  · exact only_with_chg _ _
  · exact only_with_chg _ _

theorem only_pauseEnd (s : State) : Only .changeover s (chgPauseEnd s).st := by
  unfold chgPauseEnd
  refine only_expire fun t => ?_
  dsimp only
  split
  · exact only_with_chg _ _
  · exact only_with_chg _ _

theorem only_readingTaken (s : State) : Only .changeover s (chgReadingTaken s).st := by
  unfold chgReadingTaken
  dsimp only
  repeat' split
  all_goals first | exact Only.refl _ _ | exact only_with_chg _ _

theorem only_endSwitch (s : State) (a b : Bool) : Only .changeover s (chgEndSwitch s a b).st := by
  unfold chgEndSwitch
  split
  · exact Only.refl _ _
  · exact (only_with_chg _ _).trans (only_readingTaken _)

theorem only_feedback (s : State) (x : Bool) : Only .changeover s (chgFeedback s x).st := by
  unfold chgFeedback
  split
  · exact Only.refl _ _
  · exact only_with_chg _ _

/-! ## Arc monitor, ice and heating unit -/

theorem only_arcSample (s : State) (p : Panto) (v : Option Nat) : Only .arc s (arcSample s p v).st := by
  unfold arcSample
  split
  · exact only_with_arc _ _
  · exact Only.refl _ _

theorem only_heatPeriod (s : State) (l : Load) : Only .heating s (heatPeriod s l).st := by
  unfold heatPeriod
  split
  · exact only_expire fun _ => only_with_heat _ _
  · exact Only.refl _ _
  · exact Only.refl _ _

theorem only_heatOnPartEnd (s : State) (l : Load) : Only .heating s (heatOnPartEnd s l).st := by
  unfold heatOnPartEnd
  split
  · split
    · exact only_expire fun _ => only_with_heat _ _
    · exact Only.refl _ _
  · exact Only.refl _ _
  · exact Only.refl _ _

theorem only_heatFeedback (s : State) (l : Load) (x : Bool) : Only .heating s (heatFeedback s l x).st := by
  unfold heatFeedback
  split
  · exact only_with_heat _ _
  · exact Only.refl _ _

/-! ## Roof line port, start-up control -/

theorem only_cadence (s : State) : Only .port s (portCadence s).st := by
  unfold portCadence
  split
  · exact (only_advance _ _ _).trans ((only_with_port _ _).trans (only_with_port _ _))
  · exact Only.refl _ _
  · exact Only.refl _ _

theorem only_attempt (s : State) : Only .port s (portAttempt s).st := by
  unfold portAttempt
  split
  · exact only_with_port _ _
  · exact Only.refl _ _

theorem only_collision (s : State) (n : Nat) : Only .port s (portCollision s n).st := by
  unfold portCollision
  split
  · dsimp only
    split
    · exact only_with_port _ _
    · exact only_with_port _ _
  · exact Only.refl _ _

theorem only_success (s : State) : Only .port s (portSuccess s).st := by
  unfold portSuccess
  split
  · exact only_with_port _ _
  · exact Only.refl _ _

theorem only_activeTimeout (s : State) : Only .port s (portActiveTimeout s).st := by
  unfold portActiveTimeout
  split
  · exact Only.refl _ _
  · exact only_with_port _ _

theorem only_idle (s : State) : Only .port s (portIdle s).st := by
  unfold portIdle
  split
  · exact only_with_port _ _
  · exact Only.refl _ _

theorem only_portStart {s t : State} (h : Only .port s t) : Only .startUp s t where
  held := h.held
  free := h.free
  pending := h.pending
  inFlight := h.inFlight
  sense := h.sense
  unlock _ := h.unlock (by decide)
  drive1 _ := h.drive1 (by decide)
  drive2 _ := h.drive2 (by decide)
  adm _ := h.adm (by decide)
  view _ := h.view (by decide)
  chg _ := h.chg (by decide)
  att _ := h.att (by decide)
  heat _ := h.heat (by decide)
  arc _ := h.arc (by decide)
  port _ k := absurd rfl k
  start k := absurd rfl k

theorem only_due (s : State) (b : Bool) : Only .startUp s (portDue s b) := only_portStart (only_with_port _ _)

theorem only_freeze (s : State) (c : Settings) (k : ConfigState) : Only .startUp s (startFreeze s c k).st :=
  only_with_start _ _

theorem only_listenCheck (s : State) : Only .startUp s (startListenCheck s).st := by
  unfold startListenCheck startEnterAdopt startEnterRun
  dsimp only
  repeat' split
  all_goals first
    | exact Only.refl _ _
    | exact (only_with_start _ _).trans ((only_due _ _).trans (only_freeze _ _ _))
    | exact (only_with_start _ _).trans (only_due _ _)

theorem only_listenExpiry (s : State) : Only .startUp s (startListenExpiry s).st :=
  only_expire fun _ => (only_with_start _ _).trans (only_listenCheck _)

/-! ## All commands -/

/-- A command that arrives at a block writes that block and the clock, and no other. -/
theorem effect_only (s : State) (c : Instr) (o : Owner) (h : arrivalOf c = .block o) : Only o s (effectOf s c).st := by
  cases c <;> simp only [arrivalOf, Arrival.block.injEq, reduceCtorEq] at h <;> subst h <;> simp only [effectOf]
  case legalTransition t p up => exact (only_advance _ _ _).trans (only_driveLegal _ _ _)
  case illegalTransition t p => exact (only_advance _ _ _).trans (only_driveIllegal _ _)
  case encoderQuietExpiry p => exact only_driveQuiet _ _
  case stillnessSpanEnd p => exact only_driveStill _ _
  case restSwitchClosure t p => exact (only_advance _ _ _).trans (only_driveRestClose _ _)
  case restSwitchOpening t p => exact (only_advance _ _ _).trans (only_driveRestOpen _ _)
  case wireLossInterval p => exact only_driveWireLoss _ _
  case pressureValue t p v => exact (only_advance _ _ _).trans (only_drivePressureValue _ _ _)
  case referenceTargetExpiry p => exact only_driveReference _ _
  case autoDrop p => exact only_driveAutoDrop _ _
  case raiseTimeout p => exact only_driveRaiseTimeout _ _
  case breakerWaitExpiry p => exact only_driveWaitExpiry _ _
  case lowerTimerExpiry p => exact only_driveLowerTimeout _ _
  case dropTimerExpiry p => exact only_driveDropTimeout _ _
  case cellWriteComplete t p v => exact (only_advance _ _ _).trans (only_driveCellComplete _ _ _)
  case unlockEnableExpiry => exact only_unlockExpiry _
  case entryStale a => exact only_viewEntryStale _ _
  case entryRemoval a => exact only_viewEntryRemoval _ _
  case duplicateExpiry => exact only_expire fun _ => only_with_view _ _
  case slotExpiry e => exact only_viewSlotExpiry _ _
  case noCabStale => exact only_viewNoCabStale _
  case noCabLost => exact only_viewNoCabLost _
  case windowExpiry => exact only_windowExpiry _
  case bidTimeout => exact only_bidTimeout _
  case holdoffExpiry => exact only_expire fun _ => only_with_adm _ _
  case heatedTimeReached => exact only_heatedReached _
  case preheatTimeout => exact only_preheatTimeout _
  case transitTimeout => exact only_transitTimeout _
  case retargetPauseEnd => exact only_pauseEnd _
  case endSwitchChange t a b => exact (only_advance _ _ _).trans (only_endSwitch _ _ _)
  case breakerFeedbackChange t x => exact (only_advance _ _ _).trans (only_feedback _ _)
  case breakerDisagreeExpiry => exact only_expire fun _ => only_with_chg _ _
  case currentSample t p v => exact (only_advance _ _ _).trans (only_arcSample _ _ _)
  case assessmentExpiry => exact only_expire fun _ => only_with_arc _ _
  case weatherReading t r => exact (only_advance _ _ _).trans (only_with_heat _ _)
  case pwmPeriodExpiry l => exact only_heatPeriod _ _
  case pwmOnPartEnd l => exact only_heatOnPartEnd _ _
  case heaterFeedbackChange t l x => exact (only_advance _ _ _).trans (only_heatFeedback _ _ _)
  case heaterDisagreeExpiry l => exact only_expire fun _ => only_with_heat _ _
  case cadenceExpiry => exact only_cadence _
  case spacingExpiry => exact only_expire fun _ => only_with_port _ _
  case attemptStart t bits => exact (only_advance _ _ _).trans (only_attempt _)
  case collision t n => exact (only_advance _ _ _).trans (only_collision _ _)
  case success t => exact (only_advance _ _ _).trans (only_success _)
  case lineActiveTimeout t => exact (only_advance _ _ _).trans (only_activeTimeout _)
  case lineIdle t => exact (only_advance _ _ _).trans (only_idle _)
  case listenExpiry => exact only_listenExpiry _
  case adoptTimeout => exact only_expire fun _ => only_freeze _ _ _

/-! ## Properties that every command keeps -/

/-- A property that the queue, every handling and every command's own block keep is kept by every step. -/
theorem step_keeps (P : State → Prop) (hpend : ∀ s l, P s → P { s with pending := l })
    (hstep : ∀ s m, P s → P (handle s m).st) (hfl : ∀ s l, P s → P (s.withInFlight l))
    (hcmd : ∀ s c, P s → P (effectOf s c).st) {s u : State} (h : step s = .next u) (hs : P s) : P u := by
  unfold step at h
  split at h
  · injection h with h; subst h; exact hs
  · rename_i c rest hp
    have hs' := hpend s rest hs
    generalize ({ s with pending := rest } : State) = s' at h hs'
    by_cases k : ∃ t pins x, c = .powerOn t pins x
    · obtain ⟨t, pins, x, rfl⟩ := k
      rw [exec_powerOn] at h; injection h with h; subst h
      exact run_keeps P hstep hfl _ (hcmd _ _ hs')
    · rw [exec_eq c s' fun t pins x e => k ⟨t, pins, x, e⟩] at h
      injection h with h; subst h
      split
      · exact hs'
      · exact run_keeps P hstep hfl _ (hcmd _ _ hs')

/-- A frame command is a reception, or a frame that reaches no block; the idle measure alone tells one ending of such a frame
from the other. -/
theorem frame_effect (s : State) (c : Instr) (h : arrivalOf c = .frame) :
    ∃ t f, effectOf s c = portReceive (s.advance t) f ∨
      ∃ i, effectOf s c = .none ((s.advance t).withPort
        { (s.advance t).port.heard (s.advance t).now f with idleFrom := i }) := by
  cases c <;> simp only [arrivalOf, reduceCtorEq] at h <;> simp only [effectOf]
  case frameDiscarded t f e =>
    cases e <;> first | exact ⟨t, f, .inl rfl⟩ | exact ⟨t, f, .inr ⟨_, rfl⟩⟩
  all_goals exact ⟨_, _, .inl rfl⟩

/-- A property of the fields that block `o` owns, by the kinds of commands. -/
theorem effect_keeps (P : State → Prop) (o : Owner) (hadv : ∀ s t, P s → P (s.advance t))
    (honly : ∀ s t o', o' ≠ o → Only o' s t → P s → P t)
    (hown : ∀ s c, arrivalOf c = .block o → P s → P (effectOf s c).st)
    (hsense : ∀ s c, arrivalOf c = .sense → P s → P (effectOf s c).st)
    (hpow : ∀ s c, arrivalOf c = .power → P s → P (effectOf s c).st)
    (hport : ∀ s f i, P s → P (s.withPort { s.port.heard s.now f with idleFrom := i }))
    (hdisp : ∀ s v, P s → P (dispatch s v).st) (s : State) (c : Instr) (hs : P s) : P (effectOf s c).st := by
  cases k : arrivalOf c with
  | power => exact hpow s c k hs
  | sense => exact hsense s c k hs
  | block o' =>
    by_cases e : o' = o
    · subst e; exact hown s c k hs
    · exact honly s _ o' e (effect_only s c o' k) hs
  | frame =>
    obtain ⟨t, f, h | ⟨i, h⟩⟩ := frame_effect s c k
    · rw [h]
      have hp : P ((s.advance t).withPort ((s.advance t).port.heard (s.advance t).now f)) :=
        hport _ f ((s.advance t).port.heard (s.advance t).now f).idleFrom (hadv s t hs)
      unfold portReceive
      dsimp only
      split
      · split
        · exact hdisp _ _ hp
        · exact hp
      · exact hp
    · rw [h]; exact hport _ _ _ (hadv _ _ hs)

/-- A property of an order's state, by the seven orders. -/
theorem order_keeps (P : State → Prop) (s : State) (o : OrderRecord)
    (hrec : ∀ k x, P (portDue (recordOrder s k x) true)) (hack : ∀ s c, P s → P (attAcknowledge s c).st)
    (hiso : ∀ s p, P s → P (driveIsolate s p).st) (hres : ∀ s p, P s → P (driveRestore s p).st)
    (hunl : ∀ s p, P s → P (driveUnlock s p).st) (hclr : ∀ s, P s → P (clearArcs s).st)
    (hrst : ∀ s, P s → P (startRestart s).st) : P (orderHandle s o).st := by
  simp only [orderHandle]
  split
  · simp only [orderEffect]
    have hs' := hrec o.kind (orderOutcome s o)
    generalize portDue (recordOrder s o.kind (orderOutcome s o)) true = s' at hs' ⊢
    split
    · split
      · exact hack _ _ hs'
      · exact hs'
    · split
      · exact hiso _ _ hs'
      · exact hs'
    · split
      · exact hres _ _ hs'
      · exact hs'
    · exact hs'
    · split
      · exact hunl _ _ hs'
      · exact hs'
    · exact hclr _ hs'
    · exact hrst _ hs'
  · exact hrec _ _

end Sys2Proof.Machine
end

