-- ==== Sys2Proof/Laws/DriveTurns.lean ====
section
/-! SUPPORT. What one message can make of one drive record, said once. -/

namespace Sys2Proof.Machine

/-- The records a message `m` can make of the record `d` of pantograph `p`, before its target is computed anew, at the moment
`now` and under the breaker feedback `closed` (R2, R9, R17 to R20, R64, R71, R75). -/
inductive DriveTurn (p : Panto) (m : Msg) (now : Time) (closed : Bool) (d : Drive) : Drive → Prop where
  | same : DriveTurn p m now closed d d
  | fast (src : LowerSource) (hm : m = .lower p src) (h : d.state.up = true) (hf : d.fitted = true) :
    DriveTurn p m now closed d { d.enterFallingFast now with outcome := src.outcome }
  | upgrade (src : LowerSource) (hm : m = .lower p src) (h : d.state = .fallingNormal) :
    DriveTurn p m now closed d (d.enterFallingFast now)
  | normal (src : LowerSource) (hm : m = .lower p src) (h : d.state.up = true) (hf : d.fitted = true) :
    DriveTurn p m now closed d { d.enterFallingNormal now closed with outcome := src.outcome }
  | rise (hm : m = .rise p) (h : d.state.inBid = true) : DriveTurn p m now closed d (d.enterRising now)
  | toDown (o : POutcome) (hm : m = .toDown p o) (h : d.state.inBid = true) :
    DriveTurn p m now closed d (Drive.creepTest { d.enterDown with outcome := o } now closed)
  | bid (x : System) (hm : m = .toBidding p x) (h : d.state = .down) (hf : d.fitted = true) :
    DriveTurn p m now closed d { d with state := .bidding, tag := some x }
  | heat (hm : m = .toPreheat p) (h : d.state = .bidding) : DriveTurn p m now closed d { d with state := .preheat }
  | ramp (hm : m = .breakerOpened p) (h : d.state = .fallingNormal) (hw : d.breakerWait.isSome = true) :
    DriveTurn p m now closed d (Drive.restTest { d.startRamp now with breakerWait := none })

theorem drive_setDrive (s : State) (p q : Panto) (d : Drive) :
    (s.setDrive p d).drive q = if q = p then d else s.drive q := by
  cases p <;> cases q <;> rfl

theorem drive_driveEffect (s : State) (p q : Panto) (d : Drive) (before rest : List Msg) :
    (driveEffect s p d before rest).st.drive q = if q = p then d.retarget s.now (targetFor s d) else s.drive q := by
  rw [driveEffect_st, drive_setDrive]

/-- A handling leaves a drive record, or makes one of its turns of it with the target computed anew. -/
theorem handle_turn (s : State) (m : Msg) (p : Panto) :
    (handle s m).st.drive p = s.drive p ∨
      ∃ e, DriveTurn p m s.now s.chg.closed (s.drive p) e ∧ (handle s m).st.drive p = e.retarget s.now (targetFor s e) := by
  have key : ∀ (q : Panto) (d : Drive) (before rest : List Msg),
      (q = p → DriveTurn p m s.now s.chg.closed (s.drive p) d) →
      (driveEffect s q d before rest).st.drive p = s.drive p ∨
        ∃ e, DriveTurn p m s.now s.chg.closed (s.drive p) e ∧
          (driveEffect s q d before rest).st.drive p = e.retarget s.now (targetFor s e) := by
    intro q d before rest h
    rw [drive_driveEffect]
    split
    · rename_i e; subst e; exact .inr ⟨d, h rfl, rfl⟩
    · exact .inl rfl
  by_cases k : m.owner = .drive
  · cases m <;> simp [Msg.owner] at k <;> simp only [handle]
    case lower q src =>
      unfold driveLower
      dsimp only
      split
      · exact .inl rfl
      · rename_i hf
        simp only [Bool.not_eq_true', Bool.not_eq_false] at hf
        split
        · rename_i e
          split
          · refine key q _ _ _ fun h => ?_; subst h; exact .fast src rfl (by rw [e]; rfl) (by simpa using hf)
          · refine key q _ _ _ fun h => ?_; subst h; exact .normal src rfl (by rw [e]; rfl) (by simpa using hf)
        · rename_i e
          split
          · refine key q _ _ _ fun h => ?_; subst h; exact .fast src rfl (by rw [e]; rfl) (by simpa using hf)
          · refine key q _ _ _ fun h => ?_; subst h; exact .normal src rfl (by rw [e]; rfl) (by simpa using hf)
        · rename_i e
          split
          · refine key q _ _ _ fun h => ?_; subst h; exact .upgrade src rfl e
          · exact .inl rfl
        all_goals exact .inl rfl
    case rise q =>
      unfold driveRise
      split
      · rename_i e; refine key q _ _ _ fun h => ?_; subst h; exact .rise rfl e
      · exact .inl rfl
    case toDown q o =>
      unfold driveToDown
      split
      · rename_i e; refine key q _ _ _ fun h => ?_; subst h; exact .toDown o rfl e
      · exact .inl rfl
    case toBidding q x =>
      unfold driveToBidding
      split
      · rename_i e; simp at e; refine key q _ _ _ fun h => ?_; subst h; exact .bid x rfl e.1 e.2
      · exact .inl rfl
    case toPreheat q =>
      unfold driveToPreheat
      split
      · rename_i e; refine key q _ _ _ fun h => ?_; subst h; exact .heat rfl e
      · exact .inl rfl
    case pressure q => refine key q _ _ _ fun h => ?_; subst h; exact .same
    case breakerOpened q =>
      unfold driveBreakerOpened
      split
      · rename_i e; simp at e; refine key q _ _ _ fun h => ?_; subst h; exact .ramp rfl e.1 e.2
      · exact .inl rfl
  · left
    cases p
    · exact handle_drive1 s m k
    · exact handle_drive2 s m k

end Sys2Proof.Machine
end

