-- ==== Sys2Proof/Laws/Heating.lean ====
section
/-! SUPPORT. What a recomputation of the claim, the grant and the apportioning leaves at the ice and heating unit. -/

namespace Sys2Proof.Machine

/-- All that the spending of a grant writes: claim and grant, and each load as the apportioning takes it (R130). -/
theorem heatSpend_does (s : State) (claim grant : Nat) :
    (heatSpend s claim grant).st.heat.claim = claim ∧ (heatSpend s claim grant).st.heat.grant = grant ∧
      (∀ l, (heatSpend s claim grant).st.heat.load l = s.heat.apportioned s grant l) ∧
      (heatSpend s claim grant).st.heat.forceOff = s.heat.forceOff ∧
      (heatSpend s claim grant).st = s.withHeat (heatSpend s claim grant).st.heat := by
  refine ⟨rfl, rfl, fun l => ?_, rfl, rfl⟩
  rcases l with _ | p
  · rfl
  · cases p <;> rfl

/-- A claim that stands leaves the grant (R126). -/
@[simp] theorem grantFor_same (s : State) : grantFor s s.heat.claim = s.heat.grant := if_pos rfl

/-- A changed claim has the grant computed anew (R126, R128). -/
theorem grantFor_changed {s : State} {claim : Nat} (h : claim ≠ s.heat.claim) : grantFor s claim = grantOf s claim :=
  if_neg h

/-- Where the grant is that of the claim as it stands, a recomputation of the claim leaves the grant that the table gives
the new one, changed or not (R128). -/
theorem grantFor_of_right {s : State} (h : s.heat.grant = grantOf s s.heat.claim) (claim : Nat) :
    grantFor s claim = grantOf s claim := by
  by_cases hc : claim = s.heat.claim
  · rw [hc, grantFor_same, h]
  · exact grantFor_changed hc

/-- Where the grant stands within the claim, and the water-fill grants no claim more than itself, a recomputation of the
claim leaves the grant within it (R126, R128). -/
theorem grantFor_le {s : State} (hs : s.heat.grant ≤ s.heat.claim) (hg : ∀ own, grantOf s own ≤ own) (claim : Nat) :
    grantFor s claim ≤ claim := by
  by_cases hc : claim = s.heat.claim
  · rw [hc, grantFor_same]; exact hs
  · rw [grantFor_changed hc]; exact hg claim

end Sys2Proof.Machine
end

