-- ==== Sys2Proof/Laws/Line.lean ====
section
/-! SUPPORT. The roof line as the port has seen it (9.2, 9.6, 9.8): when it receives a frame and when it may begin an attempt,
said as the claims say it, and all that a frame's end, an idle and an active time can do to the port. -/

namespace Sys2Proof.Machine

/-- The port receives a frame exactly where it hears it (R155). -/
theorem receives_iff (s : State) (t : Time) (f : List Byte) :
    s.port.receives (max s.now t) f = true ↔ s.hears t f := by
  have h : Config.idleBitsFirst * Config.bitTime = 96 ∧ byteTime f.length = 20 * f.length := ⟨by decide, rfl⟩
  unfold Port.receives State.hears
  rw [h.1, h.2]
  rcases s.port.activeFrom with _ | m <;> rcases s.port.reception with _ | pre <;> simp

/-- An attempt begins exactly where R162 allows it. -/
theorem mayAttempt_iff (s : State) (t : Time) : mayAttempt (s.advance t) = true ↔ s.attemptAllowed t := by
  have half (n i c : Nat) (h : 0 < n) : n ≤ (c - i) / 2 ↔ i + 2 * n ≤ c := by omega
  have key (w : State) : mayAttempt w = true ↔ w.port.frame = .waiting ∧ w.start.mode ≠ .listen ∧ w.port.hold = false ∧
      w.port.reception = none ∧ w.port.activeFrom = none ∧
      w.port.idleFrom + 2 * (if w.port.attempts = 0 then 48 else 48 + 16 * w.start.address) ≤ w.now ∧
      (w.port.byChange = true → w.port.spacing = none) := by
    simp only [mayAttempt, Bool.and_eq_true, decide_eq_true_eq, Bool.or_eq_true, Bool.not_eq_true',
      Option.isNone_iff_eq_none, and_assoc]
    refine and_congr_right fun h => and_congr_right fun _ => and_congr_right fun _ => and_congr_right fun _ =>
      and_congr_right fun _ => and_congr ?_ (by cases w.port.byChange <;> simp)
    simp only [idleNeeded, Port.idleBits, Config.idleBitsFirst, Config.idleBitsPerAddress, Config.bitTime, h,
      reduceCtorEq, if_false]
    split <;> exact half _ _ _ (by omega)
  exact key (s.advance t)

/-- A frame's end, once over (R155, R157): a frame that is received and passes the checks is dispatched, and every other one
counts for the line measures alone. -/
theorem portReceive_cases (s : State) (f : List Byte) :
    (∃ v, s.port.receives s.now f = true ∧ parseFrame f = some v ∧
        portReceive s f = dispatch (s.withPort (s.port.heard s.now f)) v) ∨
      ((s.port.receives s.now f = false ∨ parseFrame f = none) ∧
        portReceive s f = .none (s.withPort (s.port.heard s.now f))) := by
  unfold portReceive
  cases h : s.port.receives s.now f
  · exact .inr ⟨.inl rfl, rfl⟩
  · cases h' : parseFrame f with
    | none => exact .inr ⟨.inr rfl, rfl⟩
    | some v => exact .inl ⟨v, rfl, rfl, rfl⟩

/-- All that LINE_IDLE can do (R154, R166). -/
theorem portIdle_cases (s : State) :
    portIdle s = .none s ∨
      (s.port.activeFrom.isSome = true ∧ 48 ≤ s.port.idleBits s.now ∧
        portIdle s = .none (s.withPort
          { s.port with hold := false, activeFrom := none, reception := none, idleFrom := s.now - 96 })) := by
  unfold portIdle
  split
  · next h =>
    rw [Bool.and_eq_true, decide_eq_true_eq] at h
    exact .inr ⟨h.1, h.2, rfl⟩
  · exact .inl rfl

/-- All that LINE_ACTIVE_TIMEOUT can do (R166). -/
theorem portActiveTimeout_cases (s : State) :
    portActiveTimeout s = .none s ∨
      (s.port.hold = false ∧ s.port.activePast s.now = true ∧
        (portActiveTimeout s).now = [.latch .lineFault] ∧ (portActiveTimeout s).later = [] ∧
        (portActiveTimeout s).st = s.withPort
          { s.port with
            hold := true, activeFrom := some (s.port.activeFrom.getD (s.now - Config.activeLimit))
            idleFrom := s.port.drivenSince s.now }) := by
  unfold portActiveTimeout
  cases h : s.port.hold <;> cases h' : s.port.activePast s.now <;> simp

/-- The idle measure of an active line, in microseconds (R154, entry 14). -/
theorem drivenSince_eq (x : Port) (now : Time) : x.drivenSince now = max x.idleFrom (now - 95) := rfl

/-- The active measure has passed 2 ms (R166, entry 13). -/
theorem activePast_iff (x : Port) (now : Time) :
    x.activePast now = true ↔ x.activeFrom.getD (x.idleFrom + 96) + 2 * Config.ms ≤ now := by
  have h : Config.idleBitsFirst * Config.bitTime = 96 ∧ Config.activeLimit = 2 * Config.ms := ⟨by decide, by decide⟩
  unfold Port.activePast
  rw [h.1, h.2]
  cases x.activeFrom <;> simp

end Sys2Proof.Machine
end

