-- ==== Sys2Proof/Laws/MaySend.lean ====
section
/-! SUPPORT. Which messages the handling of a message may send, said once as a table. -/

namespace Sys2Proof.Machine

/-- What follows a change of an own pantograph's state. -/
def Msg.afterState : Msg → Bool
  | .due | .admPanto _ _ _ | .chgPanto | .heatClaim | .arcWatch | .startTest => true
  | _ => false

/-- What follows a change of phase other than into MISMATCH. -/
def Msg.afterPhase : Msg → Bool
  | .recheck c => c = .breakerFail || c = .wrongSystem
  | .lower _ src => src = .changeover
  | .due | .admCheck | .attRecompute | .chgSelector | .chgPanto | .chgExits | .chgArrive | .chgReopen | .startTest => true
  | _ => false

/-- What follows a change of the level. -/
def Msg.afterLevel : Msg → Bool
  | .lower _ src => src = .protectNormal || src = .protectFast
  | .due | .admCheck | .chgLevel _ | .heatLevel | .chgReopen | .startTest => true
  | _ => false

/-- What the clearing of a cause delivers beyond a change of the level (R151). -/
def Msg.delivers (c : Cause) : Msg → Bool
  | .chgCleared e => e = c && (c = .wrongSystem || c = .selectorFail)
  | .heatCleared => c = .heaterFault
  | _ => false

/-- What follows the freezing of the configuration. -/
def Msg.afterFreeze : Msg → Bool
  | .pressure _ | .heatGrant | .attRecompute | .startTest => true
  | _ => false

/-- A report of a head heater. -/
def Msg.isHead : Msg → Bool
  | .admHead _ _ => true
  | _ => false

/-- What follows a change of the ice level. -/
def Msg.afterIce : Msg → Bool
  | .latch c => c = .iceHeavy
  | .endOf c => c = .iceHeavy
  | .pressure _ | .heatClaim => true
  | _ => false

/-- What follows a change of the effective demand. -/
def Msg.afterView : Msg → Bool
  | .latch c => c = .cabConflict || c = .demandStale || c = .demandLost
  | .endOf c => c = .cabConflict || c = .demandStale || c = .demandLost
  | .admCheck | .admTest | .admYield | .admDropAhead | .chgDemand _ _ | .pressure _ | .heatClaim | .chgReopen
  | .startTest => true
  | _ => false

/-- The message `m` may send the message `k`. -/
def Msg.maySend (m k : Msg) : Bool :=
  match m with
  | .lower p src => k.afterState || k = .chgOpen || k = .admReturn p src.returnOutcome
  | .rise _ => k.afterState
  | .toDown _ _ => k.afterState
  | .toBidding _ _ => k.afterState
  | .toPreheat _ => k.afterState
  | .pressure _ => k.afterState
  | .breakerOpened _ => k.afterState
  | .admReturn p o => k = .toDown p o
  | .admCheck => match k with
    | .toDown _ o => o = .protect || o = .withheld
    | _ => false
  | .admPanto _ _ _ => k = .admYield || k = .admDropAhead
  | .admTest => match k with
    | .toPreheat _ => true
    | .rise _ => true
    | _ => false
  | .admYield => match k with
    | .lower _ src => src = .yield
    | _ => false
  | .admDropAhead => k = .latch .peerDropAhead || k = .recheck .peerDropAhead
  | .admReport _ _ _ => k = .admTest
  | .admHead _ _ => false
  | .startTest => match k with
    | .toBidding _ _ => true
    | _ => false
  | .viewTake => k.afterView
  | .viewGate _ => k = .latch .senseDisagree || k = .endOf .senseDisagree
  | .chgDemand _ _ => k.afterPhase
  | .chgGate _ => k.afterPhase || k = .latch .wrongSystem || k = .latch .lineDead || k = .endOf .lineDead
  | .chgPanto => k.afterPhase || k = .endOf .lineDead
  | .chgOpen => k.afterPhase
  | .chgLevel _ => k.afterPhase
  | .chgExits => k.afterPhase
  | .chgArrive => k.afterPhase
  | .chgSelector => match k with
    | .lower _ src => src = .changeover
    | .admCheck | .heatClaim | .chgExits | .startTest => true
    | _ => false
  | .chgCleared _ => k.afterPhase
  | .chgReopen => k.afterPhase
  | .latch _ => k.afterLevel
  | .endOf c => k.afterLevel || k.delivers c
  | .recheck c => k.afterLevel || k.delivers c
  | .metMark c => k = .recheck c
  | .attRecompute => k.afterLevel
  | .heatClaim => k.isHead
  | .heatGrant => k.isHead
  | .heatLevel => k.isHead
  | .heatStep _ => k.afterIce
  | .heatCleared => k.isHead
  | .arcWatch => false
  | .due => false
  | .block _ => k.afterFreeze || k = .latch .configMismatch
  | .listenCheck => k.afterFreeze

/-- Every message an effect sends is of a kind. -/
def Effect.sends (e : Effect) (q : Msg → Bool) : Prop := e.now.all q = true ∧ e.later.all q = true

theorem Effect.sends.mono {e : Effect} {q r : Msg → Bool} (h : e.sends q) (k : ∀ m, q m = true → r m = true) : e.sends r :=
  ⟨List.all_eq_true.mpr fun m hm => k m (List.all_eq_true.mp h.1 m hm),
   List.all_eq_true.mpr fun m hm => k m (List.all_eq_true.mp h.2 m hm)⟩

theorem sends_none (s : State) (q : Msg → Bool) : (Effect.none s).sends q := ⟨rfl, rfl⟩

theorem sends_driveEffect (s : State) (p : Panto) (d : Drive) (before : List Msg) (q : Msg → Bool)
    (hb : before.all q = true) (hq : ∀ m, m.afterState = true → q m = true) : (driveEffect s p d before []).sends q := by
  unfold driveEffect
  dsimp only
  split
  · exact ⟨by simpa using hb, rfl⟩
  · refine ⟨?_, by simpa using hq .startTest rfl⟩
    simp only [List.append_nil, List.all_append, hb, Bool.true_and, stateMsgs, List.all_cons, List.all_nil, Bool.and_true]
    simp [hq .due rfl, hq (.admPanto _ _ _) rfl, hq .chgPanto rfl, hq .heatClaim rfl, hq .arcWatch rfl]

theorem sends_agreeMsgs (a b : Changeover) : (agreeMsgs a b).all Msg.afterPhase = true := by unfold agreeMsgs; split <;> rfl
theorem sends_selectorMsgs (a b : Changeover) : (selectorMsgs a b).all Msg.afterPhase = true := by
  unfold selectorMsgs; split <;> rfl
theorem sends_lowerRaised (s : State) : (lowerRaised s).all Msg.afterPhase = true := by
  unfold lowerRaised
  simp only [List.filter]
  split <;> split <;> rfl

theorem sends_chgEffect (s : State) (c : Changeover) (more : List Msg) (q : Msg → Bool) (h : more.all q = true)
    (hq : ∀ m, m.afterPhase = true → q m = true) : (chgEffect s c more).sends q := by
  have up : ∀ l : List Msg, l.all Msg.afterPhase = true → l.all q = true := fun l k =>
    List.all_eq_true.mpr fun m hm => hq m (List.all_eq_true.mp k m hm)
  refine ⟨by simp [chgEffect, List.all_append, h, up _ (sends_agreeMsgs _ _), up _ (sends_selectorMsgs _ _)], ?_⟩
  simp only [chgEffect]
  split
  · rfl
  · exact up _ rfl

theorem sends_entryMsgs (s : State) (ph : Phase) (h : ph ≠ .mismatch) : (entryMsgs s ph).all Msg.afterPhase = true := by
  cases ph <;> first | exact absurd rfl h | simp [entryMsgs, sends_lowerRaised, Msg.afterPhase, List.all_append]

theorem sends_enterPhase (s : State) (c : Changeover) (ph : Phase) (before : List Msg) (q : Msg → Bool)
    (h : before.all q = true) (he : (entryMsgs s ph).all q = true) (hq : ∀ m, m.afterPhase = true → q m = true) :
    (enterPhase s c ph before).sends q := by
  have up : ∀ l : List Msg, l.all Msg.afterPhase = true → l.all q = true := fun l k =>
    List.all_eq_true.mpr fun m hm => hq m (List.all_eq_true.mp k m hm)
  refine ⟨?_, up _ rfl⟩
  have h4 : ([.due, .admCheck, .attRecompute, .recheck .wrongSystem] : List Msg).all q = true := up _ rfl
  simp only [enterPhase, List.all_append, h, he, up _ (sends_agreeMsgs _ _), up _ (sends_selectorMsgs _ _), h4, Bool.and_self]

theorem sends_levelLowering (x y : Nat) : (levelLowering x y).all Msg.afterLevel = true := by
  unfold levelLowering
  split
  · rfl
  · split <;> rfl

theorem sends_attentionEffect (s : State) (a : Attention) (more : List Msg) (q : Msg → Bool) (h : more.all q = true)
    (hq : ∀ m, m.afterLevel = true → q m = true) : (attentionEffect s a more).sends q := by
  have up : ∀ l : List Msg, l.all Msg.afterLevel = true → l.all q = true := fun l k =>
    List.all_eq_true.mpr fun m hm => hq m (List.all_eq_true.mp k m hm)
  unfold attentionEffect
  dsimp only
  split
  · exact ⟨h, rfl⟩
  · refine ⟨?_, up _ rfl⟩
    have h1 : ([Msg.due] : List Msg).all q = true := up _ rfl
    have h2 : ∀ n, ([.admCheck, .chgLevel n, .heatLevel] : List Msg).all q = true := fun _ => up _ rfl
    simp only [List.all_append, h, h1, h2, up _ (sends_levelLowering _ _), Bool.and_self]

theorem sends_attClear (s : State) (c : Cause) : (attClear s c).sends fun k => k.afterLevel || k.delivers c := by
  refine sends_attentionEffect _ _ _ _ ?_ fun m h => by simp [h]
  cases c <;> rfl

theorem sends_outputMsgs (l : Load) (x y : LoadState) : (outputMsgs l x y).all Msg.isHead = true := by
  unfold outputMsgs
  split
  · rfl
  · split <;> rfl

theorem sends_heatSpend (s : State) (x y : Nat) : (heatSpend s x y).sends Msg.isHead :=
  ⟨by simp [heatSpend, List.all_append, sends_outputMsgs], rfl⟩

theorem sends_iceEvaluate (s : State) (h : Heating) : (iceEvaluate s h).sends Msg.afterIce := by
  refine ⟨?_, rfl⟩
  simp only [iceEvaluate, List.all_append, Bool.and_eq_true]
  refine ⟨by split <;> rfl, ?_⟩
  split
  · rfl
  · split <;> rfl

theorem sends_lowers (l : List Panto) (src : LowerSource) (q : Msg → Bool) (h : ∀ p, q (.lower p src) = true) :
    (l.map fun p => Msg.lower p src).all q = true := by
  induction l with
  | nil => rfl
  | cons p l ih => simp only [List.map_cons, List.all_cons, h, ih, Bool.and_self]

theorem sends_modeMsgs (a b : SourceMode) : (modeMsgs a b).all Msg.afterView = true := by
  unfold modeMsgs
  split
  · rfl
  · cases b <;> simp [Msg.afterView]

theorem sends_demandMsgs (a b : PeerView) : (demandMsgs a b).all Msg.afterView = true := by
  simp only [demandMsgs, List.all_append, Bool.and_eq_true]
  refine ⟨⟨⟨⟨⟨?_, ?_⟩, ?_⟩, ?_⟩, ?_⟩, ?_⟩ <;> split <;> rfl

theorem sends_viewEffect (s : State) (v : PeerView) : (viewEffect s v).sends Msg.afterView := by
  refine ⟨by simp [viewEffect, List.all_append, sends_modeMsgs, sends_demandMsgs], ?_⟩
  simp only [viewEffect]
  split <;> rfl

theorem sends_startFreeze (s : State) (c : Settings) (k : ConfigState) : (startFreeze s c k).sends Msg.afterFreeze := ⟨rfl, rfl⟩

theorem sends_chgDemand (s : State) (a b : Bool) : (chgDemand s a b).sends Msg.afterPhase := by
  unfold chgDemand
  dsimp only
  have h : (if (a && decide (s.view.demand ≠ .raise)) = true then lowerRaised s else []).all Msg.afterPhase = true := by
    split
    · exact sends_lowerRaised s
    · rfl
  generalize (if (a && decide (s.view.demand ≠ .raise)) = true then lowerRaised s else []) = msgs at h ⊢
  generalize (if (a && decide (s.view.demand ≠ .raise) && decide (s.view.demand = .lower)) = true then
    s.chg.setRequest s.now false else s.chg) = c
  have e : ∀ c, (chgEffect s c msgs).sends Msg.afterPhase := fun c => sends_chgEffect s c msgs _ h fun _ k => k
  have g1 : (enterPhase s c .preparing msgs).sends Msg.afterPhase :=
    sends_enterPhase s c _ msgs _ h (sends_entryMsgs s _ (by decide)) fun _ k => k
  have g2 : (enterPhase s c .selecting msgs).sends Msg.afterPhase :=
    sends_enterPhase s c _ msgs _ h (sends_entryMsgs s _ (by decide)) fun _ k => k
  split <;> (repeat' split)
  all_goals first
    | with_reducible exact e _
    | with_reducible exact g1
    | with_reducible exact g2
    | exact ⟨by simp only [List.all_append, (e c).1]; rfl, (e c).2⟩
    | exact ⟨by simp only [List.all_append, (e c).1, Bool.true_and]; exact sends_lowers _ _ _ fun _ => rfl, (e c).2⟩

theorem sends_chgGate (s : State) (r : GateReport) :
    (chgGate s r).sends fun k => k.afterPhase || k = .latch .wrongSystem || k = .latch .lineDead || k = .endOf .lineDead := by
  unfold chgGate
  dsimp only
  have h : (lineDeadMsgs s r).all (fun k => k.afterPhase || k = .latch .wrongSystem || k = .latch .lineDead
      || k = .endOf .lineDead) = true := by
    unfold lineDeadMsgs
    repeat' split
    all_goals rfl
  generalize lineDeadMsgs s r = msgs at h ⊢
  have up : ∀ k : Msg, k.afterPhase = true → (k.afterPhase || k = .latch .wrongSystem || k = .latch .lineDead
      || k = .endOf .lineDead) = true := fun k h => by simp [h]
  have e := fun c => sends_chgEffect s c msgs _ h up
  have g : ∀ c ph, ph ≠ .mismatch → (enterPhase s c ph msgs).sends _ := fun c ph hp =>
    sends_enterPhase s c ph msgs _ h
      (List.all_eq_true.mpr fun m hm => up m (List.all_eq_true.mp (sends_entryMsgs s ph hp) m hm)) up
  have gm : ∀ c, (enterPhase s c .mismatch msgs).sends _ := fun c => by
    refine sends_enterPhase s c .mismatch msgs _ h ?_ up
    simp only [entryMsgs, List.all_append, Bool.and_eq_true]
    exact ⟨rfl, List.all_eq_true.mpr fun m hm => up m (List.all_eq_true.mp (sends_lowerRaised s) m hm)⟩
  split <;> (repeat' split)
  all_goals first
    | with_reducible exact e _
    | with_reducible exact gm _
    | with_reducible exact g _ _ (by decide)
    | exact ⟨by simp only [List.all_append, (e _).1]; rfl, (e _).2⟩

theorem sends_chgExits (s : State) : (chgExits s).sends Msg.afterPhase := by
  unfold chgExits
  repeat' split
  all_goals first
    | exact sends_none s _
    | exact sends_enterPhase _ _ _ _ _ rfl (sends_entryMsgs s _ (by decide)) fun _ k => k

theorem sends_chgPanto (s : State) : (chgPanto s).sends fun k => k.afterPhase || k = .endOf .lineDead := by
  unfold chgPanto
  dsimp only
  have h : (if (s.chg.lineDead && !s.anyContact) = true then [Msg.endOf .lineDead] else []).all
      (fun k => k.afterPhase || k = .endOf .lineDead) = true := by
    split <;> rfl
  generalize (if (s.chg.lineDead && !s.anyContact) = true then [Msg.endOf .lineDead] else []) = msgs at h ⊢
  generalize (if (s.chg.lineDead && !s.anyContact) = true then { s.chg with lineDead := false } else s.chg) = c
  split
  · refine sends_enterPhase _ _ _ _ _ h ?_ fun k hk => by simp [hk]
    rfl
  · exact ⟨h, rfl⟩

theorem sends_chgArrive (s : State) : (chgArrive s).sends Msg.afterPhase := by
  unfold chgArrive
  dsimp only
  repeat' split
  all_goals first
    | exact sends_none s _
    | exact sends_enterPhase _ _ _ _ _ rfl (sends_entryMsgs s _ (by decide)) fun _ k => k
    | exact sends_chgEffect _ _ _ _ rfl fun _ k => k

theorem sends_chgOpen (s : State) : (chgOpen s).sends Msg.afterPhase := sends_chgEffect _ _ _ _ rfl fun _ k => k

/-- The handling of a message sends what the table lets it send. -/
theorem handle_maySend (s : State) (m : Msg) : (handle s m).sends m.maySend := by
  cases m with
  | lower p src =>
    simp only [handle, driveLower]
    have u : ∀ k : Msg, k.afterState = true → Msg.maySend (.lower p src) k = true := fun k h => by simp [Msg.maySend, h]
    have o : ([Msg.chgOpen] : List Msg).all (Msg.maySend (.lower p src)) = true := by simp [Msg.maySend]
    repeat' split
    all_goals first
      | exact sends_none s _
      | exact sends_driveEffect _ _ _ _ _ rfl u
      | exact sends_driveEffect _ _ _ _ _ o u
      | exact ⟨by simp [Msg.maySend], rfl⟩
  | rise p =>
    simp only [handle, driveRise]
    split
    · exact sends_driveEffect _ _ _ _ _ rfl fun _ k => k
    · exact sends_none s _
  | toDown p o =>
    simp only [handle, driveToDown]
    split
    · exact sends_driveEffect _ _ _ _ _ rfl fun _ k => k
    · exact sends_none s _
  | toBidding p x =>
    simp only [handle, driveToBidding]
    split
    · exact sends_driveEffect _ _ _ _ _ rfl fun _ k => k
    · exact sends_none s _
  | toPreheat p =>
    simp only [handle, driveToPreheat]
    split
    · exact sends_driveEffect _ _ _ _ _ rfl fun _ k => k
    · exact sends_none s _
  | pressure p => exact sends_driveEffect _ _ _ _ _ rfl fun _ k => k
  | breakerOpened p =>
    simp only [handle, driveBreakerOpened]
    split
    · exact sends_driveEffect _ _ _ _ _ rfl fun _ k => k
    · exact sends_none s _
  | admReturn p o =>
    simp only [handle, admReturn]
    split
    · exact ⟨by simp [Msg.maySend], rfl⟩
    · exact sends_none s _
  | admCheck =>
    simp only [handle, admCheck, admReturn]
    repeat' split
    all_goals exact sends_none s _
  | admPanto p old new =>
    refine ⟨?_, rfl⟩
    simp only [handle, admPanto]
    split <;> split <;> rfl
  | admTest =>
    simp only [handle, admTest, admRise]
    repeat' split
    all_goals exact sends_none s _
  | admYield => exact ⟨sends_lowers _ _ _ fun _ => rfl, rfl⟩
  | admDropAhead =>
    refine ⟨?_, rfl⟩
    simp only [handle, admDropAhead]
    split <;> rfl
  | admReport x y t =>
    simp only [handle, admReport, admWindowEnd]
    repeat' split
    all_goals first | exact sends_none _ _ | exact ⟨rfl, rfl⟩
  | admHead p on =>
    simp only [handle, admHead]
    repeat' split
    all_goals exact sends_none _ _
  | startTest =>
    simp only [handle, admStart]
    repeat' split
    all_goals exact sends_none s _
  | viewTake => exact sends_viewEffect _ _
  | viewGate r =>
    refine ⟨?_, rfl⟩
    simp only [handle, viewGate]
    repeat' split
    all_goals rfl
  | chgDemand a b => exact sends_chgDemand s a b
  | chgGate r => exact sends_chgGate s r
  | chgPanto => exact sends_chgPanto s
  | chgOpen => exact sends_chgOpen s
  | chgLevel n =>
    simp only [handle, chgLevel]
    split
    · exact sends_chgOpen s
    · exact sends_none s _
  | chgExits => exact sends_chgExits s
  | chgArrive => exact sends_chgArrive s
  | chgSelector =>
    refine ⟨?_, rfl⟩
    simp only [handle, chgSelector, List.all_append, Bool.and_eq_true]
    exact ⟨sends_lowers _ _ _ fun _ => rfl, rfl⟩
  | chgCleared c =>
    simp only [handle, chgCleared]
    repeat' split
    all_goals first
      | exact sends_none s _
      | exact sends_enterPhase _ _ _ _ _ rfl rfl fun _ k => k
  | chgReopen =>
    simp only [handle, chgReopen]
    split
    · exact sends_enterPhase _ _ _ _ _ rfl rfl fun _ k => k
    · exact sends_none s _
  | latch c => exact sends_attentionEffect _ _ _ _ rfl fun _ k => k
  | endOf c =>
    simp only [handle, attEnd]
    split
    · exact sends_attClear s c
    · exact sends_none s _
  | recheck c =>
    simp only [handle, attRecheck]
    split
    · exact sends_attClear s c
    · exact sends_none s _
  | metMark c => exact ⟨by simp [handle, attMet, Msg.maySend], rfl⟩
  | attRecompute => exact sends_attentionEffect _ _ _ _ rfl fun _ k => k
  | heatClaim => exact sends_heatSpend _ _ _
  | heatGrant => exact sends_heatSpend _ _ _
  | heatLevel => exact sends_heatSpend _ _ _
  | heatStep a => exact sends_iceEvaluate _ _
  | heatCleared => exact sends_heatSpend _ _ _
  | arcWatch => exact sends_none _ _
  | due => exact sends_none _ _
  | block b =>
    simp only [handle, startBlock]
    repeat' split
    all_goals first
      | exact sends_none s _
      | exact (sends_startFreeze _ _ _).mono fun k h => by simp [Msg.maySend, h]
  | listenCheck =>
    simp only [handle, startListenCheck, startEnterAdopt, startEnterRun]
    repeat' split
    all_goals first
      | exact sends_none _ _
      | exact sends_startFreeze _ _ _
      | exact ⟨rfl, rfl⟩

/-- What a message sends, one message at a time. -/
theorem sent_of_handle {s : State} {m k : Msg} (h : k ∈ (handle s m).now ∨ k ∈ (handle s m).later) : m.maySend k = true := by
  rcases h with h | h
  · exact List.all_eq_true.mp (handle_maySend s m).1 k h
  · exact List.all_eq_true.mp (handle_maySend s m).2 k h

/-! ### Gate reports in flight -/

/-- A gate report in flight holds the class that the line sense unit holds (R40). -/
def Msg.reportStands (s : State) : Msg → Prop
  | .chgGate r => r.confirmed = s.sense.confirmed
  | .viewGate r => r.confirmed = s.sense.confirmed
  | _ => True

/-- No message sends a gate report or changes the class, so every report in flight goes on holding the class. -/
theorem reportStands_handle (s : State) (m : Msg) (rest : List Msg) (h : ∀ k ∈ rest, k.reportStands s) :
    ∀ k ∈ (handle s m).now ++ rest ++ (handle s m).later, k.reportStands (handle s m).st := by
  have hs : ∀ k : Msg, k.reportStands s → k.reportStands (handle s m).st := fun k hk => by
    cases k <;> simp only [Msg.reportStands, (handle_kept s m).sense] at hk ⊢ <;> exact hk
  have hn : ∀ k : Msg, m.maySend k = true → k.reportStands (handle s m).st := fun k hk => by
    cases k
    case chgGate | viewGate =>
      revert hk
      cases m <;> simp [Msg.maySend, Msg.afterState, Msg.afterPhase, Msg.afterLevel, Msg.delivers, Msg.afterFreeze,
        Msg.isHead, Msg.afterIce, Msg.afterView]
    all_goals trivial
  intro k hk
  rcases List.mem_append.1 hk with hk | hk
  · rcases List.mem_append.1 hk with hk | hk
    · exact hn k (sent_of_handle (.inl hk))
    · exact hs k (h k hk)
  · exact hn k (sent_of_handle (.inr hk))

end Sys2Proof.Machine
end

