-- ==== Sys2Proof/Tests/Slice0.lean ====
section
/-! SUPPORT. Tests on single commands with figures of the spec, the refusals of `Instr.wf`, and for every statement with
hypotheses a state that meets them. -/

namespace Sys2Proof.Tests

open Machine

-- One theorem after another: many kernel evaluations side by side would each hold a thread.
set_option Elab.async false

/-! ## Small states -/

/-- A station with an AC head on P1 and a DC head on P2, both at rest, in RUN on the default configuration, on a line idle
since moment 0. -/
def ready : State :=
  { State.reset with
    drive1 := .initial .ac .clear true
    drive2 := .initial .dc .clear true
    port := { State.reset.port with activeFrom := none }
    start := { State.reset.start with
      mode := .run, listen := none, configState := .frozenDefault, pos1 := 4, pos2 := 4, insCode := 2, headCode := 3 } }

/-- The same station with another record for P1. -/
def withP1 (d : Drive) : State := { ready with drive1 := d }

/-- P1 with its rest switch open, a few counts up. -/
def offRest (angle : Nat) : Drive := { Drive.initial .ac .clear false with angle := angle }

/-- P1 in RISING at an angle. -/
def rising (angle : Nat) : Drive :=
  { offRest angle with state := .rising, tag := some .ac25, setpoint := .held 380, raiseTimer := some 8000000 }

/-- P1 in CONTACT at an angle, captured at 2000, with its watch armed. -/
def contact (angle : Nat) : Drive :=
  { offRest angle with
    state := .contact, tag := some .ac25, setpoint := .held 380, captured := 2000, capture := true, armed := true
    outcome := .raised }

/-- P1 in FALLING normal with its breaker wait. -/
def falling : Drive :=
  { offRest 2000 with
    state := .fallingNormal, tag := some .ac25, setpoint := .held 380, outcome := .lowered
    breakerWait := some 200000, lowerTimer := some 10000000 }

/-- P1 in DROPPED with its cell busy. -/
def dropped : Drive :=
  { offRest 2000 with
    state := .dropped, tag := some .ac25, dump := true, outcome := .dropped, lockout := true, write := some .locked
    dropTimer := some 4000000 }

/-- P1 in BIDDING for AC25. -/
def bidding : Drive := { Drive.initial .ac .clear true with state := .bidding, tag := some .ac25 }

/-- P1 in PREHEAT for AC25. -/
def preheating (angle : Nat) : Drive := { offRest angle with state := .preheat, tag := some .ac25 }

/-- A consist record that asks for RAISE on AC25. -/
def asksRaise : ConsistRecord :=
  { active := true, demand := .raise, system := some .ac25, direction := .aLeading, deIce := .auto, speed := 297
    marker := 41250, block := none }

/-- The peer view under the sole cab A. -/
def led : PeerView :=
  { PeerView.initial 0 with
    slotA := { record := some asksRaise, arrived := 0, activeFresh := true }
    mode := .sole .a, noCab := none
    heldValues := { demand := .raise, system := some .ac25, direction := .aLeading, deIce := .auto, speed := 297, marker := 41250 } }

/-- A station under the sole cab A. -/
def obeying (s : State) : State := { s with view := led }

/-- The changeover controller in STEADY on its AC side, the request CLOSE and the feedback closed. -/
def steady : Changeover :=
  { Changeover.initial 0 true false true with phase := .steady, close := true, disagree := none }

/-- The line sense unit at the end of a gate with a crossing count and a level. -/
def gateOf (crossings level : Nat) : Sense :=
  { Sense.initial with position := 480, polarity := .pos, crossings := crossings, sum := 480 * level }

/-- What a command leaves; the state itself where it does not go on. -/
def after (c : Instr) (s : State) : State :=
  match exec c s with
  | .next u => u
  | _ => s

/-- The state with one command waiting. -/
def waiting (c : Instr) (s : State) : State := { s with pending := [c] }

/-- What the step over that one command leaves. -/
def stepped (c : Instr) (s : State) : State := after c { s with pending := [] }

/-- The frame of an order from cab A to station 1. -/
def orderFrame (k : OrderKind) (arg : Nat) : List Byte :=
  (ValidFrame.order { sender := .a, target := 1, kind := k, arg := arg }).bytes

/-- The frame of a consist record from cab A. -/
def consistFrame (r : ConsistRecord) : List Byte := (ValidFrame.consist .a r).bytes

/-- The status frame a station of some address in the state of `ready` sends. -/
def statusFrame (address : Nat) : List Byte := (ValidFrame.status address (statusOfStation ready)).bytes

/-- The entry of a peer at an address. -/
def peer (address : Nat) : PeerEntry := .fresh address (statusOfStation ready) 0

/-- On the quiet line of `ready` a frame that ends at moment 1000 is heard. -/
theorem heard_on_a_quiet_line (s : State) (f : List Byte) (hp : s.port = ready.port) (hn : s.now = 0)
    (hf : f.length ≤ 45) : s.hears 1000 f := by
  unfold State.hears
  rw [hp, hn]
  refine ⟨by decide, Or.inl ⟨rfl, ?_⟩⟩
  show 0 + 96 + 20 * f.length ≤ max 0 1000
  omega

/-! ## Ill-formed commands are refused by `Instr.wf` -/

theorem test_wf_entry_address :
    (Instr.entryStale 1).wf = true ∧ (Instr.entryStale 16).wf = true ∧ (Instr.entryStale 0).wf = false ∧
      (Instr.entryRemoval 17).wf = false := by decide

theorem test_wf_collision_bit : (Instr.collision 0 329).wf = true ∧ (Instr.collision 0 330).wf = false := by decide

theorem test_wf_frames_of_their_kind :
    (Instr.statusRecord 0 (statusFrame 2)).wf = true ∧ (Instr.statusRecord 0 (consistFrame asksRaise)).wf = false ∧
      (Instr.consistRecord 0 (consistFrame asksRaise)).wf = true ∧ (Instr.duplicateRecord 0 []).wf = false ∧
      (Instr.consistRecord 0 (statusFrame 2)).wf = false := by decide +kernel

theorem test_wf_orders_of_their_kind :
    (Instr.isolate 0 (orderFrame .isolate 1)).wf = true ∧ (Instr.isolate 0 (orderFrame .restore 1)).wf = false ∧
      (Instr.restart 0 (orderFrame .restart 0)).wf = true ∧ (Instr.restart 0 (orderFrame .unlock 1)).wf = false := by
  decide +kernel

theorem test_wf_discarded_frames :
    (Instr.frameDiscarded 0 [1, 2] .brokenOff).wf = true ∧
      (Instr.frameDiscarded 0 (statusFrame 2) .whole).wf = false ∧
      (Instr.frameDiscarded 0 (List.replicate 261 0) .brokenOff).wf = false := by decide +kernel

/-! ## Figures of the spec -/

/-- The pressure targets worked in R7. -/
theorem test_pressure_targets :
    pressureTarget .default 300 0 = 344 ∧ pressureTarget .default 300 60 = 404 ∧
      pressureTarget { Settings.default with basePress := 300, aero := 100 } 400 0 = 250 := by decide

/-- The supplies of the second table of R33. -/
theorem test_supplies_classified :
    classify 0 0 = .dead ∧ classify 0 15 = .sys .dc1k5 ∧ classify 0 30 = .sys .dc3 ∧ classify 0 36 = .sys .dc3 ∧
      classify 0 45 = .over ∧ classify 8 135 = .sys .ac15 ∧ classify 23 225 = .sys .ac25 ∧
      classify 25 243 = .sys .ac25 ∧ classify 24 272 = .over ∧ classify 24 135 = .unknown ∧ classify 1 112 = .over := by
  decide

/-- The worked cases of R127 and the division of 7.13. -/
theorem test_water_fill_cases :
    waterFill 400 [60, 120, 40, 200, 100] = [(40, 40), (60, 60), (100, 100), (120, 100), (200, 100)] ∧
      waterFill 250 [90, 90, 90] = [(90, 83), (90, 83), (90, 83)] ∧
      waterFill 200 [0, 40, 60, 100, 100] = [(0, 0), (40, 40), (60, 53), (100, 53), (100, 53)] ∧
      waterFill 200 [0, 20, 60, 100, 100] = [(0, 0), (20, 20), (60, 60), (100, 60), (100, 60)] ∧
      waterFill 200 [0, 40, 60, 100] = [(0, 0), (40, 40), (60, 60), (100, 100)] := by decide

/-- The duties of R130 and 7.13: insulator 40, heads 30 each, P1 in CONTACT, de-ice FORCED. -/
def heated : State :=
  { withP1 (contact 2000) with view := { led with heldValues := { led.heldValues with deIce := .forced } } }

theorem test_apportioning_duties :
    shareOf heated 55 .insulator = .full ∧ shareOf heated 55 (.head .p1) = .part 50 ∧
      shareOf heated 55 (.head .p2) = .off ∧ shareOf heated 53 (.head .p1) = .part 43 ∧
      shareOf heated 60 (.head .p1) = .part 66 ∧ shareOf heated 100 (.head .p2) = .full := by decide

/-- The spacings worked in R68. -/
theorem test_minimum_spacing :
    minSpacing .default 297 = 208 ∧ minSpacing { Settings.default with spacingBase := 300, spacingGain := 100 } 400 = 400 ∧
      minSpacing .default 0 = 60 := by decide

/-- The steps of 7.12. -/
theorem test_ice_steps :
    stepSum 0 (-60) 100 0 = 1800 ∧ stepSum 1800 (-60) 100 2 = 3699 ∧ stepSum 3699 (-60) 100 0 = 5441 ∧
      stepSum 99900 (-80) 95 1 = 100403 ∧ stepSum 100000 (-45) 92 3 = 99619 ∧ stepSum 1 0 0 0 = 0 := by decide

/-- The positions of R57 and R172. -/
theorem test_positions :
    positionOf 5 262 false = 135 ∧ positionOf 5 262 true = 153 ∧ positionOf 9 262 false = 239 ∧
      positionOf 9 262 true = 257 ∧ positionOf 1 262 false = 30 ∧ positionOf 1 262 true = 48 ∧
      positionOf 31 300 true = 956 := by decide

/-- The block worked in R175. -/
theorem test_block_clamped :
    Settings.clamped { budget := 5000, carLength := 262, spacingBase := 80, spacingGain := 120, limitAC25 := 0,
                       limitAC15 := 2, limitDC3 := 3, limitDC1K5 := 9, basePress := 520, aero := 40, windowLow := 3650,
                       windowHigh := 3500, preheat := 200, enables := 0x7FFFFF } =
      { budget := 4000, carLength := 262, spacingBase := 80, spacingGain := 100, limitAC25 := 1, limitAC15 := 2,
        limitDC3 := 3, limitDC1K5 := 6, basePress := 500, aero := 40, windowLow := 1400, windowHigh := 3400,
        preheat := 120, enables := 0x3F3B60 } := by decide

/-- The closings of the second example of chapter 6: ring sums 22 and 19. -/
theorem test_arc_ring :
    (after .assessmentExpiry { ready with arc := { ArcMonitor.initial 0 with
      second := 6, ring := [9, 0, 1, 0, 2, 0, 3, 1, 4, 5] } }).arc.ring.sum = 22 ∧
    CauseSet.has (after .assessmentExpiry { ready with arc := { ArcMonitor.initial 0 with
      second := 6, ring := [9, 0, 1, 0, 2, 0, 3, 1, 4, 5] } }).att.latched .arcBurst = true ∧
    CauseSet.has (after .assessmentExpiry { ready with arc := { ArcMonitor.initial 0 with
      second := 0, ring := [2, 0, 3, 1, 4, 5, 6, 0, 0, 0] } }).att.latched .arcBurst = false := by decide +kernel

/-! ## Single commands -/

theorem test_legal_transition_clamps :
    (after (.legalTransition 5 .p1 true) (withP1 (offRest 7))).drive1.angle = 8 ∧
      (after (.legalTransition 5 .p1 false) (withP1 (offRest 0))).drive1.angle = 0 ∧
      (after (.legalTransition 5 .p1 true) (withP1 (contact 4095))).drive1.angle = 4095 := by decide +kernel

theorem test_creep_is_lowered :
    (after (.legalTransition 5 .p1 true) (withP1 (offRest 40))).drive1.state = .fallingNormal ∧
      (after (.legalTransition 5 .p1 true) (withP1 (offRest 39))).drive1.state = .down := by decide +kernel

theorem test_contact_after_stillness :
    (after (.stillnessSpanEnd .p1) (withP1 { rising 2000 with still := [(300, 2000), (0, 2004)] })).drive1.state = .contact ∧
      (after (.stillnessSpanEnd .p1) (withP1 { rising 1399 with still := [(0, 1399)] })).drive1.state = .rising := by
  decide +kernel

theorem test_wire_loss_mark :
    (after (.legalTransition 7 .p1 true) (withP1 (contact 2048))).drive1.wireLoss = some 100007 ∧
      (after (.legalTransition 7 .p1 true) (withP1 (contact 2047))).drive1.wireLoss = none := by decide +kernel

theorem test_raise_timeout_stalls :
    (after (.raiseTimeout .p1) (withP1 (rising 900))).drive1.outcome = .stall ∧
      CauseSet.has (after (.raiseTimeout .p1) (withP1 (rising 900))).att.latched .raiseStall = true := by decide +kernel

theorem test_drop_interval_begins_below_260 :
    (after (.pressureValue 9 .p1 (some 259)) (withP1 (contact 2000))).drive1.dropInterval = some 100009 ∧
      (after (.pressureValue 9 .p1 (some 260)) (withP1 (contact 2000))).drive1.dropInterval = none ∧
      (after (.pressureValue 9 .p1 none) (withP1 (contact 2000))).drive1.dropInterval = some 100009 := by decide +kernel

theorem test_auto_drop :
    let u := after (.autoDrop .p1) (withP1 { contact 2000 with dropInterval := some 100 })
    u.drive1.state = .dropped ∧ u.drive1.lockout = true ∧ u.drive1.write = some .locked ∧ u.drive1.tag = some .ac25 ∧
      u.drive1.dropTimer = some 4000100 ∧ u.att.level = 1 := by decide +kernel

theorem test_lowering_at_rest_ends_down :
    (after (.restSwitchClosure 5 .p1) (withP1 falling)).drive1.state = .down ∧
      (after (.restSwitchClosure 5 .p1) (withP1 dropped)).drive1.dump = false ∧
      (after (.restSwitchClosure 5 .p1) (withP1 (contact 2000))).drive1.outcome = .noWire := by decide +kernel

theorem test_cell_verify :
    CauseSet.has (after (.cellWriteComplete 5 .p1 .unreadable) (withP1 dropped)).att.latched .lockoutStoreFault = true ∧
      CauseSet.has (after (.cellWriteComplete 5 .p1 .locked) (withP1 dropped)).att.latched .lockoutStoreFault = false := by
  decide +kernel

theorem test_sample_crosses :
    (after (.lineSample 5 (some (-3))) { ready with sense := { Sense.initial with polarity := .pos } }).sense.crossings = 1 ∧
      (after (.lineSample 5 (some (-2))) { ready with sense := { Sense.initial with polarity := .pos } }).sense.crossings = 0 ∧
      (after (.lineSample 5 (some 700)) ready).sense.sum = 600 := by decide +kernel

theorem test_second_equal_gate_confirms :
    (after .gateEnd { ready with sense := { gateOf 24 225 with newer := some (.sys .ac25) } }).sense.confirmed = .sys .ac25 ∧
      (after .gateEnd { ready with sense := gateOf 24 225 }).sense.confirmed = .unknown ∧
      (after .gateEnd { ready with sense := gateOf 24 261 }).sense.confirmed = .over := by decide +kernel

theorem test_peer_ages :
    ((after (.entryStale 2) { ready with view := { ready.view with table := [peer 2] } }).view.table.map PeerEntry.stale) =
        [true] ∧
      (after (.entryRemoval 2) { ready with view := { ready.view with table := [peer 2] } }).view.table = [] := by
  decide +kernel

theorem test_own_address_is_a_duplicate :
    CauseSet.has (after (.statusRecord 1000 (statusFrame 1)) ready).att.latched .dupStation = true ∧
      (after (.statusRecord 1000 (statusFrame 2)) ready).view.table.map PeerEntry.address = [2] := by decide +kernel

theorem test_consist_record_is_obeyed :
    (after (.consistRecord 1000 (consistFrame asksRaise)) ready).view.mode = .sole .a ∧
      (after (.consistRecord 1000 (consistFrame { asksRaise with speed := 500 })) ready).view.heldValues.speed = 400 := by
  decide +kernel

theorem test_demand_goes_stale_and_lost :
    (after .noCabStale ready).view.mode = .stale ∧ (after .noCabStale ready).att.level = 2 ∧
      (after .noCabLost (after .noCabStale ready)).att.level = 1 := by decide +kernel

theorem test_transit_times_out :
    (after .transitTimeout { ready with chg := { ready.chg with
      phase := .selecting, selector := .moving, target := some .dc, transit := some 3000000 } }).chg.selector = .lost := by
  decide +kernel

theorem test_breaker_fails_after_500_ms :
    (after (.breakerFeedbackChange 5 true) ready).chg.disagree = some 500005 ∧
      (after .breakerDisagreeExpiry (after (.breakerFeedbackChange 5 true) ready)).att.leading = 5 := by decide +kernel

theorem test_interruption_lengths :
    (after (.currentSample 5 .p1 (some 15)) { withP1 (contact 2000) with arc := { ArcMonitor.initial 0 with
      ch1 := { Channel.initial with watch := .interrupted, threshold := 15, length := 4 } } }).arc.ch1.arcs = 1 ∧
    (after (.currentSample 5 .p1 (some 15)) { withP1 (contact 2000) with arc := { ArcMonitor.initial 0 with
      ch1 := { Channel.initial with watch := .interrupted, threshold := 15, length := 3 } } }).arc.ch1.arcs = 0 ∧
    (after (.currentSample 5 .p1 (some 15)) { withP1 (contact 2000) with arc := { ArcMonitor.initial 0 with
      ch1 := { Channel.initial with watch := .interrupted, threshold := 15, length := 80 } } }).arc.ch1.longArcs = 1 := by
  decide +kernel

theorem test_weather_is_clamped :
    (after (.weatherReading 5 (.temperature (-500))) ready).heat.temperature = -400 ∧
      (after (.weatherReading 5 (.humidity 101)) ready).heat.humidity = 100 := by decide +kernel

theorem test_orders_answer :
    (after (.isolate 1000 (orderFrame .isolate 1)) (obeying ready)).drive1.isolate = true ∧
      (after (.isolate 1000 (orderFrame .isolate 3)) (obeying ready)).port.lastOutcome = some .refusedArg ∧
      (after (.isolate 1000 (orderFrame .isolate 1)) ready).port.lastOutcome = some .refusedCab ∧
      (after (.unlock 1000 (orderFrame .unlock 1)) (obeying ready)).port.lastOutcome = some .refusedNotEnabled ∧
      (after (.unlockEnable 1000 (orderFrame .unlockEnable 0)) (obeying ready)).unlock = some 10001000 := by decide +kernel

theorem test_restart_goes_to_listen :
    (after (.restart 1000 (orderFrame .restart 0)) (obeying ready)).start.mode = .listen ∧
      (after (.restart 1000 (orderFrame .restart 0)) (obeying ready)).start.listen = some 1001000 := by decide +kernel

/-- `ready` with a frame waiting after some attempts, the line last driven at moment 0, at address 5 (9.9). -/
def waitingFrame (attempts : Nat) : State :=
  { ready with
    start := { ready.start with address := 5 }
    port := { ready.port with frame := .waiting, attempts := attempts } }

/-- A first attempt after 48 bit times, a retry of station 5 after 128 (9.9), and none on a line that is active. -/
theorem test_attempt_needs_idle :
    (after (.attemptStart 0 48) (waitingFrame 0)).port.frame = .sending ∧
      (after (.attemptStart 1 47) (waitingFrame 0)).port.frame = .waiting ∧
      (after (.attemptStart 255 0) (waitingFrame 1)).port.frame = .waiting ∧
      (after (.attemptStart 256 0) (waitingFrame 1)).port.frame = .sending ∧
      (after (.attemptStart 256 0) { waitingFrame 1 with
        port := { (waitingFrame 1).port with activeFrom := some 3 } }).port.frame = .waiting := by decide +kernel

/-- The power-on port receives nothing before an idle of 48 bit times (R170), and then a frame that begins after it. -/
theorem test_receives_after_the_first_idle :
    (after (.statusRecord 1000 (statusFrame 2)) { ready with port := Port.initial 0 }).view.table = [] ∧
      ((after (.statusRecord 1000 (statusFrame 2)) (after (.lineIdle 96) { ready with port := Port.initial 0 })).view.table.map
        PeerEntry.address) = [2] ∧
      (after (.statusRecord 755 (statusFrame 2)) (after (.lineIdle 96) { ready with port := Port.initial 0 })).view.table =
        [] := by decide +kernel

/-- A line active for 2 ms holds transmission, 48 bit times of idle release it (R166). -/
theorem test_active_line_holds :
    (after (.lineActiveTimeout 2003) { ready with port := { ready.port with activeFrom := some 3 } }).port.hold = true ∧
      (after (.lineActiveTimeout 2002) { ready with port := { ready.port with activeFrom := some 3 } }).port.hold = false ∧
      (after (.lineIdle 96) { ready with port := { ready.port with activeFrom := some 3, hold := true } }).port.hold = false ∧
      (after (.lineIdle 95) { ready with port := { ready.port with activeFrom := some 3, hold := true } }).port.hold = true := by
  decide +kernel

theorem test_eighth_collision_abandons :
    (after (.collision 5 30) { ready with port := { ready.port with frame := .sending, attempts := 7 } }).port.frame = .none ∧
      (after (.collision 5 30) { ready with port := { ready.port with frame := .sending, attempts := 6 } }).port.attempts = 7 := by
  decide +kernel

theorem test_defaults_are_frozen_after_adopt :
    (after .adoptTimeout { ready with start := { ready.start with
      mode := .adopt, adopt := some 5000000, configState := .unfrozen, carIndex := 5 } }).start.pos1 = 135 := by
  decide +kernel

/-! ## States that meet the hypotheses of the statements

One theorem for each statement with hypotheses, under its name. Where a statement has several clauses, the theorem shows a
state for each, at the ends of the ranges they speak of. -/

theorem witness_StepRunsFrontCommand : State.reset.pending = [] := rfl

theorem witness_ResetInputHoldsTheStation :
    ({ ready with held := true } : State).held = true ∧ (∀ t pins x, Instr.gateEnd ≠ .powerOn t pins x) ∧
      (withP1 dropped).held = false :=
  ⟨rfl, fun _ _ _ h => (by cases h), rfl⟩

theorem witness_ReleaseGivesPowerOnValues :
    ({ ready with held := true } : State).held = true ∧ (true = false ∨ true ≠ false) ∧
      (∃ p, ((released ({ withP1 { dropped with cell := .unreadable } with held := true } : State)
        { StrapPins.zero with head1 := 1 } ⟨true, true, true, false, false, false, false, false⟩).drive p).fitted = true ∧
        (({ withP1 { dropped with cell := .unreadable } with held := true } : State).drive p).cell = .unreadable) ∧
      (∀ p, (ready.drive p).fitted = true → (ready.drive p).cell ≠ .unreadable) :=
  ⟨rfl, Or.inr (by decide), ⟨.p1, by decide, rfl⟩, fun p => by cases p <;> decide⟩

/-- A station in good order with P1 in CONTACT, and a step from it. -/
def running : State := { withP1 (contact 2000) with pending := [.legalTransition 5 .p1 true] }

theorem running_steps : step running = .next (stepped (.legalTransition 5 .p1 true) running) := rfl

theorem witness_StepKeepsDriveSenseAndArcRecords :
    (∃ u, step running = .next u) ∧ running.anglesOk ∧ running.valvesOk ∧ running.coursesOk ∧ running.senseOk ∧
      running.arcOk :=
  ⟨⟨_, running_steps⟩, by unfold State.anglesOk Drive.angleOk; decide, by unfold State.valvesOk Drive.valvesOk; decide,
    by unfold State.coursesOk Drive.courseOk; decide, by unfold State.senseOk; decide,
    by unfold State.arcOk Channel.ok; decide +kernel⟩

/-- Strap values and configuration in their ranges, and a table with entries at both ends. -/
theorem table_in_order :
    (∃ u, step { running with view := { running.view with table := [peer 2, peer 16] } } = .next u) ∧
      running.startOk ∧ ({ running with view := { running.view with table := [peer 2, peer 16] } } : State).tableOk ∧
      1 ≤ running.start.address ∧ running.start.address ≤ 16 :=
  ⟨⟨stepped (.legalTransition 5 .p1 true) { running with view := { running.view with table := [peer 2, peer 16] } }, rfl⟩,
    by unfold State.startOk Settings.inRange
       refine ⟨by decide, by decide, by decide, by decide, by decide, by decide, by decide,
         ⟨by decide, by decide, by decide, by decide, by decide, fun x => by cases x <;> decide, by decide, by decide,
           by decide, by decide, by decide, by decide, by decide, by decide⟩,
         by decide, by decide, by decide, by decide, by decide⟩,
    by unfold State.tableOk; decide, by decide, by decide⟩

/-- The same station in a transit to its DC side. -/
def moving : Changeover :=
  { Changeover.initial 0 false false false with
    phase := .selecting, selector := .moving, target := some .dc, transit := some 3000000, motor := .toward .dc }

theorem moving_ok (s : State) (h : s.chg = moving) : s.changeoverOk := by
  unfold State.changeoverOk
  rw [h]
  refine ⟨by decide, fun side => by cases side <;> decide, by decide, by decide, by decide, by decide⟩

/-- The same station in a retarget pause. -/
def paused : Changeover := { moving with transit := none, pause := some 200000, motor := .stopped }

theorem paused_ok (s : State) (h : s.chg = paused) : s.changeoverOk := by
  unfold State.changeoverOk
  rw [h]
  refine ⟨by decide, fun side => by cases side <;> decide, by decide, by decide, by decide, by decide⟩

theorem witness_StepKeepsChangeover :
    ({ running with chg := moving } : State).changeoverOk ∧ ∃ u, step { running with chg := moving } = .next u :=
  ⟨moving_ok _ rfl, stepped (.legalTransition 5 .p1 true) { running with chg := moving }, rfl⟩

theorem witness_StepKeepsHeatingAndAttention :
    running.heatOk ∧ running.attentionOk ∧ ∃ u, step running = .next u := by
  refine ⟨⟨by decide, by decide, by decide, fun h => absurd h (by decide), fun l => ?_⟩,
    ⟨by decide, by decide, fun c => by cases c <;> decide⟩, _, running_steps⟩
  rcases l with _ | p
  · exact ⟨rfl, rfl, rfl⟩
  · cases p <;> exact ⟨rfl, rfl, rfl⟩

/-- A station with a frame in SENDING on an active line. -/
def mid : State :=
  { running with port := { running.port with
    frame := .sending, activeFrom := some 0, snapshot := some { record := statusOfStation running, taken := 0 } } }

theorem witness_StepKeepsPortStartUpAndPeerTable :
    running.portOk ∧ mid.portOk ∧ running.startOk ∧ (∃ u, step running = .next u) ∧ (∃ u, step mid = .next u) ∧
      ({ running with view := { running.view with table := [peer 2, peer 16] } } : State).tableOk ∧
      1 ≤ running.start.address ∧ running.start.address ≤ 16 := by
  refine ⟨?_, ?_, table_in_order.2.1, ⟨_, running_steps⟩, ⟨stepped (.legalTransition 5 .p1 true) mid, rfl⟩,
    table_in_order.2.2⟩ <;> unfold State.portOk
  · exact ⟨by decide, by decide, by decide, by decide, by decide, by decide, by decide, fun m h => (by cases h), by decide,
      by decide⟩
  · exact ⟨by decide, by decide, by decide, by decide, by decide, by decide, by decide, fun m h => by cases h; decide,
      by decide, by decide⟩

theorem witness_AtMostOnePantographEngaged :
    running.settled ∧ running.oneEngaged ∧ ∃ u, step running = .next u :=
  ⟨rfl, by unfold State.oneEngaged; decide, _, running_steps⟩

theorem running_settles : (stepped (.legalTransition 5 .p1 true) running).settled := by
  unfold State.settled; decide +kernel

theorem witness_LockedOutOrIsolatedStaysDown :
    running.settled ∧ running.coursesOk ∧ running.barredRest ∧ ∃ u, step running = .next u ∧ u.settled :=
  ⟨rfl, by unfold State.coursesOk Drive.courseOk; decide, fun p => by cases p <;> decide, _, running_steps,
    running_settles⟩

theorem witness_ProtectiveLevelHoldsEverythingDown :
    running.settled ∧ running.coursesOk ∧ running.protected ∧ ∃ u, step running = .next u ∧ u.settled :=
  ⟨rfl, by unfold State.coursesOk Drive.courseOk; decide, fun h => absurd h (by decide), _, running_steps,
    running_settles⟩

/-- A gate end at which the breaker closes: CONFIRMING for AC25, the second equal gate ending. -/
def closing : State :=
  { obeying ready with
    chg := { Changeover.initial 0 true false false with phase := .confirming }
    sense := { gateOf 24 225 with newer := some (.sys .ac25) } }

theorem witness_CloseOnlyOnConfirmedDemand :
    closing.settled ∧ closing.closeConfirmed ∧
      ∃ u, step (waiting .gateEnd closing) = .next u ∧ u.settled ∧ u.chg.close = true :=
  ⟨rfl, fun h => absurd h (by decide), stepped .gateEnd closing, rfl, by unfold State.settled; decide +kernel,
    by decide +kernel⟩

theorem witness_ClaimAndGrantBounded :
    running.settled ∧ running.claimBounded ∧ ∃ u, step running = .next u ∧ u.settled :=
  ⟨rfl, ⟨by decide, by decide, fun _ => by decide⟩, _, running_steps, running_settles⟩

theorem witness_PressureTargetsFollowTheFormula :
    running.settled ∧ running.targetsRight ∧ ∃ u, step running = .next u ∧ u.settled :=
  ⟨rfl, fun p => by cases p <;> decide, _, running_steps, running_settles⟩

theorem witness_DetectedCausesFollowMasks :
    running.settled ∧ running.detectedRight ∧ ∃ u, step running = .next u ∧ u.settled :=
  ⟨rfl, fun c => by cases c <;> decide, _, running_steps, running_settles⟩

theorem witness_SourceModeFollowsTheSlots :
    (obeying running).settled ∧ (obeying running).sourceRight ∧ ∃ u, step (obeying running) = .next u ∧ u.settled := by
  refine ⟨rfl, ⟨fun e => by cases e <;> decide, by decide, ?_, ?_, by decide, by decide⟩,
    stepped (.legalTransition 5 .p1 true) (obeying running), rfl, by unfold State.settled; decide +kernel⟩
  · intro e r h hr
    cases h
    cases hr
    rfl
  · intro x y h
    cases h

theorem witness_InputsAndArcRecordsChangeOnlyByTheirCommands :
    (∃ u, exec (.restSwitchClosure 5 .p1) running = .next u) ∧ (Instr.restSwitchClosure 5 .p1).isPower = false ∧
      (Instr.restSwitchClosure 5 .p1).isLineSense = false ∧
      (∃ u, exec (.clearArcs 1000 (orderFrame .clearArcs 0)) (obeying running) = .next u) ∧
      (Instr.clearArcs 1000 (orderFrame .clearArcs 0)).isPower = false ∧
      (Instr.clearArcs 1000 (orderFrame .clearArcs 0)).isArc = false :=
  ⟨⟨after (.restSwitchClosure 5 .p1) running, rfl⟩, rfl, rfl,
    ⟨after (.clearArcs 1000 (orderFrame .clearArcs 0)) (obeying running), rfl⟩, rfl, rfl⟩

theorem witness_LockoutCellAndConfigurationChangeOnlyAsGiven :
    (∃ u, exec (.autoDrop .p1) (withP1 { contact 2000 with dropInterval := some 100 }) = .next u ∧
      (withP1 { contact 2000 with dropInterval := some 100 }).drive1.lockout = false ∧ (u.drive .p1).lockout = true) ∧
    (Instr.autoDrop .p1).isPower = false ∧ (withP1 dropped).drive1.lockout = true ∧
    running.startOk ∧ running.start.configState ≠ .unfrozen ∧ (∃ u, exec .gateEnd running = .next u) ∧
    Instr.gateEnd.isPower = false :=
  ⟨⟨after (.autoDrop .p1) (withP1 { contact 2000 with dropInterval := some 100 }), rfl, rfl, by decide +kernel⟩, rfl, rfl,
    table_in_order.2.1, by decide, ⟨after .gateEnd running, rfl⟩, rfl⟩

theorem witness_PeerTableChangesOnlyAsGiven :
    (∃ u, exec (.entryRemoval 2) running = .next u) ∧ (Instr.entryRemoval 2).isPower = false :=
  ⟨⟨after (.entryRemoval 2) running, rfl⟩, rfl⟩

theorem witness_BreakerClosesOnlyAtAGate :
    closing.settled ∧ closing.chg.close = false ∧ ∃ u, exec .gateEnd closing = .next u ∧ u.chg.close = true :=
  ⟨rfl, rfl, after .gateEnd closing, rfl, by decide +kernel⟩

/-- Every row of the table of R33 at both of its ends. -/
theorem witness_GatesAreClassifiedByTheTable :
    closing.held = false ∧ closing.sense.position = 480 ∧
      classify 0 4 = .dead ∧ classify 1 5 = .unknown ∧ classify 1 9 = .unknown ∧ classify 0 10 = .sys .dc1k5 ∧
      classify 1 21 = .sys .dc1k5 ∧ classify 1 22 = .sys .dc3 ∧ classify 0 41 = .sys .dc3 ∧ classify 1 42 = .over ∧
      classify 2 42 = .unknown ∧ classify 5 135 = .unknown ∧ classify 6 89 = .unknown ∧ classify 6 90 = .sys .ac15 ∧
      classify 10 161 = .sys .ac15 ∧ classify 10 162 = .over ∧ classify 11 135 = .unknown ∧ classify 19 225 = .unknown ∧
      classify 20 152 = .unknown ∧ classify 20 153 = .sys .ac25 ∧ classify 28 260 = .sys .ac25 ∧
      classify 28 261 = .over ∧ classify 29 225 = .unknown := by decide

/-- Claims at the budget, and one unit above it. -/
theorem witness_WaterFillDividesTheBudget :
    [90, 90, 70].sum ≤ 250 ∧ 250 < [90, 90, 71].sum ∧ (∀ e ∈ waterFill 250 [90, 90, 70], e.2 = e.1) ∧
      waterFill 250 [90, 90, 71] = [(71, 71), (90, 89), (90, 89)] := by decide

/-- A grant at the first rating, at one unit above it, where the second does not fit, and at one where its duty is 0. -/
theorem witness_ApportioningFollowsThePriority :
    claimed { heated with start := { heated.start with headCode := 0 } } (.head .p1) = false ∧
      shareOf heated 53 (.head .p1) = .part 43 ∧ claimed heated .insulator = true ∧
      claimed heated (.head .p1) = true ∧ loadPlace heated .insulator < loadPlace heated (.head .p1) ∧
      shareOf heated 53 (.head .p1) ≠ .off ∧
      ¬((heated.drive .p1).engaged = true ∧ (heated.drive .p2).engaged = true) ∧
      40 = ((allLoads.filter fun m => claimed heated m && decide (loadPlace heated m < loadPlace heated (.head .p1))).map
        (rating heated)).sum ∧
      40 + rating heated (.head .p1) ≤ 70 ∧ 69 < 40 + rating heated (.head .p1) ∧ 39 < 40 ∧
      shareOf heated 70 (.head .p1) = .full ∧ shareOf heated 40 (.head .p1) = .off ∧
      shareOf heated 39 .insulator = .part 97 := by decide

theorem witness_AdmissionTestReadsTheAheadSet :
    ((obeying (withP1 bidding)).drive .p1).tag = some .ac25 ∧
      (betterRank .aLeading (ownPanto (withP1 bidding) .p1) (ownPanto (withP1 bidding) .p2) = true) := by decide

theorem witness_FramesComeBackFromTheirBytes :
    (ValidFrame.status 2 (statusOfStation ready)).fits = true ∧
      (ValidFrame.consist .b { asksRaise with block := some .default }).fits = true ∧
      (ValidFrame.order { sender := .a, target := 255, kind := .unlock, arg := 255 }).fits = true := by decide

/-- Frames that fit, one of each kind, and the bytes of an order before its CRC. -/
theorem witness_FrameBytesFollowTheLayout :
    (ValidFrame.status 2 (statusOfStation ready)).fits = true ∧
      (ValidFrame.consist .b { asksRaise with block := some .default }).fits = true ∧
      (ValidFrame.order { sender := .a, target := 255, kind := .unlock, arg := 255 }).fits = true ∧
      (ValidFrame.order { sender := .a, target := 1, kind := .isolate, arg := 2 }).bytes.take 6 = [3, 1, 3, 1, 2, 2] := by
  decide


theorem witness_LegalTransitionMovesTheAngle :
    (withP1 (offRest 40)).held = false ∧ (withP1 (offRest 40)).settled ∧
      41 = (if true then min 4095 ((withP1 (offRest 40)).drive .p1).angle + 1 else 0) ∧
      40 = min 4095 (((withP1 (offRest 39)).drive .p1).angle + 1) ∧
      4095 = min 4095 (((withP1 (contact 4095)).drive .p1).angle + 1) ∧
      0 = ((withP1 (offRest 0)).drive .p1).angle - 1 ∧
      ((withP1 (offRest 40)).drive .p1).fitted = true ∧ ((withP1 (offRest 40)).drive .p1).restClosed = false ∧
      ((withP1 (offRest 40)).drive .p1).state = .down ∧ (State.reset.drive .p1).fitted = false ∧
      (ready.drive .p1).restClosed = true ∧ ((withP1 (contact 2048)).drive .p1).state = .contact ∧
      ((withP1 (contact 2048)).drive .p1).captured + 48 < 2049 ∧
      ¬((withP1 (contact 2047)).drive .p1).captured + 48 < 2048 := by unfold State.settled; decide

/-- P1 in RISING, still since moment 0, at a moment of the clock. -/
def stillAt (angle : Nat) (now : Time) : State :=
  { withP1 { rising angle with still := [(0, angle)] } with now := now }

theorem witness_ContactIsTakenInsideTheWindow :
    (stillAt 1399 200000).held = false ∧ (stillAt 1399 200000).settled ∧
      ((stillAt 1399 200000).drive .p1).fitted = true ∧ ((stillAt 1399 200000).drive .p1).restClosed = false ∧
      ((stillAt 1399 200000).drive .p1).state = .rising ∧
      (Drive.pushStill { rising 1400 with still := [(0, 1399)] } 200000).isStill 200000 = true ∧
      (Drive.pushStill { rising 1400 with still := [(0, 1399)] } 199999).isStill 199999 = false ∧
      (Drive.pushStill { rising 1400 with still := [(0, 1392)] } 200000).isStill 200000 = false ∧
      (Drive.pushStill { rising 1400 with still := [(0, 1393)] } 200000).isStill 200000 = true ∧
      (stillAt 1399 0).start.config.windowLow = 1400 ∧ (stillAt 1399 0).start.config.windowHigh = 3400 ∧
      ((stillAt 3400 0).drive .p1).stillFrom = some 0 ∧ (ready.drive .p1).state ≠ .rising := by
  unfold State.settled; decide

theorem witness_WireLossStallAndUpperStopLower :
    (withP1 { contact 2049 with wireLoss := some 100000 }).held = false ∧
      (withP1 { contact 2049 with wireLoss := some 100000 }).settled ∧
      ((withP1 { contact 2049 with wireLoss := some 100000 }).drive .p1).state = .contact ∧
      ((withP1 { contact 2049 with wireLoss := some 100000 }).drive .p1).wireLoss = some 100000 ∧
      ((withP1 (rising 900)).drive .p1).raiseTimer = some 8000000 ∧
      ((withP1 (rising 3799)).drive .p1).state = .rising ∧ 3799 ≤ ((withP1 (rising 3799)).drive .p1).angle ∧
      ((withP1 (rising 4094)).drive .p1).angle < 4095 ∧ ((withP1 (rising 3799)).drive .p1).restClosed = false ∧
      (∃ u, exec (.raiseTimeout .p1) (withP1 (rising 900)) = .next u ∧ u.settled) ∧
      (ready.drive .p1).wireLoss = none ∧ (ready.drive .p1).raiseTimer = none := by
  refine ⟨rfl, rfl, rfl, rfl, rfl, rfl, by decide, by decide, rfl,
    ⟨after (.raiseTimeout .p1) (withP1 (rising 900)), rfl, by unfold State.settled; decide +kernel⟩, rfl, rfl⟩

theorem witness_IllegalTransitionsAreCounted :
    let h : Drive := { offRest 7 with encHistory := [999999, 500, 1], quietTimer := some 10999999 }
    (withP1 h).held = false ∧ (withP1 h).settled ∧ (h.fitted = true) ∧
      (3 ≤ h.encHistory.length ∧ ∀ m ∈ h.encHistory, 1000000 < m + 1 * Config.second) ∧
      ¬(∀ m ∈ h.encHistory, 1000001 < m + 1 * Config.second) ∧ (State.reset.drive .p1).fitted = false ∧
      (ready.drive .p1).quietTimer = none ∧ h.quietTimer = some 10999999 ∧
      CauseSet.has (CauseSet.add 0 .encoderFault) .encoderFault = true ∧ (ready.drive .p2).quietTimer = none := by
  unfold State.settled; decide

theorem witness_RestSwitchEndsALowering :
    (withP1 falling).held = false ∧ (withP1 falling).settled ∧ ((withP1 falling).drive .p1).fitted = true ∧
      ((withP1 falling).drive .p1).state.falling = true ∧ ((withP1 dropped).drive .p1).state = .dropped ∧
      (withP1 falling).noBidFor .p1 ∧ ((withP1 (contact 2000)).drive .p1).state = .contact ∧
      ((withP1 (rising 2000)).drive .p1).state = .rising ∧ ((withP1 bidding).drive .p1).state.inBid = true ∧
      (∃ u, exec (.restSwitchClosure 5 .p1) (withP1 (contact 2000)) = .next u ∧ u.settled) ∧
      CauseSet.has (CauseSet.add 0 .lowerStall) .lowerStall = true ∧ (ready.drive .p2).restClosed = true ∧
      (State.reset.drive .p1).fitted = false := by
  refine ⟨rfl, rfl, rfl, rfl, rfl, Or.inl (by decide), rfl, rfl, rfl,
    ⟨after (.restSwitchClosure 5 .p1) (withP1 (contact 2000)), rfl, by unfold State.settled; decide +kernel⟩,
    by decide, rfl, rfl⟩

theorem witness_PressureValueFeedsTheDropWatch :
    (withP1 (contact 2000)).held = false ∧ (withP1 (contact 2000)).settled ∧
      ((withP1 (contact 2000)).drive .p1).fitted = true ∧ ((withP1 (contact 2000)).drive .p1).armed = true ∧
      ((withP1 (rising 2000)).drive .p1).armed = false ∧ (contact 2000).reference 5 - 120 ≤ 260 ∧
      ¬(contact 2000).reference 5 - 120 ≤ 259 ∧ (ready.drive .p1).oldTargets = [] ∧
      (Drive.oldTargets { contact 2000 with oldTargets := [(9, 350), (5, 344)] }).getLast? = some (5, 344) ∧
      Drive.reference { contact 2000 with oldTargets := [(5, 344)] } 1000005 = 344 ∧
      Drive.reference { contact 2000 with oldTargets := [(5, 344)] } 1000006 = 380 := by
  unfold State.settled; decide

theorem witness_AutoDropVentsAndLocks :
    (withP1 { contact 2000 with dropInterval := some 100 }).held = false ∧
      (withP1 { contact 2000 with dropInterval := some 100 }).settled ∧
      ((withP1 { contact 2000 with dropInterval := some 100 }).drive .p1).armed = true ∧
      ((withP1 { contact 2000 with dropInterval := some 100 }).drive .p1).state.up = true ∧
      ((withP1 { contact 2000 with dropInterval := some 100 }).drive .p1).restClosed = false ∧
      (∃ u, exec (.autoDrop .p1) (withP1 { contact 2000 with dropInterval := some 100 }) = .next u ∧ u.settled) ∧
      ((withP1 (contact 2000)).drive .p1).dropInterval = none ∧
      Drive.state { rising 0 with armed := true, restClosed := true, dropInterval := some 100 } = .rising := by
  refine ⟨rfl, rfl, rfl, rfl, rfl, ⟨after (.autoDrop .p1) (withP1 { contact 2000 with dropInterval := some 100 }), rfl,
    by unfold State.settled; decide +kernel⟩, rfl, rfl⟩

theorem witness_LoweringTimersExpire :
    (withP1 falling).held = false ∧ (withP1 falling).settled ∧ ((withP1 falling).drive .p1).restClosed = false ∧
      ((withP1 falling).drive .p1).state = .fallingNormal ∧
      ((withP1 falling).drive .p1).breakerWait = some 200000 ∧ ((withP1 falling).drive .p1).setpoint = .held 380 ∧
      ((withP1 falling).drive .p1).lowerTimer = some 10000000 ∧ ((withP1 dropped).drive .p1).state = .dropped ∧
      ((withP1 dropped).drive .p1).dropTimer = some 4000000 ∧ (withP1 falling).chg.close = false ∧
      ({ withP1 falling with chg := steady } : State).chg.close = true ∧
      (∃ u, exec (.breakerWaitExpiry .p1) (withP1 falling) = .next u ∧ u.settled) ∧
      (ready.drive .p1).state ≠ .fallingNormal := by
  refine ⟨rfl, rfl, rfl, rfl, rfl, rfl, rfl, rfl, rfl, rfl, rfl, ⟨after (.breakerWaitExpiry .p1) (withP1 falling), rfl,
    by unfold State.settled; decide +kernel⟩, by decide⟩

theorem witness_CellWriteIsVerified :
    (withP1 dropped).held = false ∧ (withP1 dropped).settled ∧ ((withP1 dropped).drive .p1).write = some .locked ∧
      (ready.drive .p1).write = none ∧ ready.unlock = none ∧ ({ ready with unlock := some 7 } : State).unlock = some 7 ∧
      CellValue.unreadable ≠ .locked := by unfold State.settled; decide

theorem witness_SamplesAndGatesAreCounted :
    ready.held = false ∧ ready.settled ∧ ready.sense.position ≠ 480 ∧
      600 = max (-600) (min 600 ((some 700 : Option Int).getD 0)) ∧
      -600 = max (-600) (min 600 ((some (-601) : Option Int).getD 0)) ∧ closing.sense.position = 480 ∧
      closing.settled ∧ classify closing.sense.crossings (closing.sense.sum / 480) = .sys .ac25 ∧
      classify 24 261 = .over ∧ classify 24 152 = .unknown ∧ classify 24 4 = .dead := by unfold State.settled; decide

theorem witness_StatusRecordsMakeAndAgeEntries :
    ready.held = false ∧ ready.settled ∧ ready.hears 1000 (statusFrame 2) ∧ ready.hears 1000 (statusFrame 1) ∧
      parseFrame (statusFrame 2) = some (.status 2 (statusOfStation ready)) ∧
      2 ≠ ready.start.address ∧ parseFrame (statusFrame 1) = some (.status 1 (statusOfStation ready)) ∧
      1 = ready.start.address ∧ tableFind 2 ready.view.table = none ∧ tableFind 2 [peer 2] = some (peer 2) ∧
      (peer 2).stale = false ∧ PeerEntry.stale { peer 2 with stale := true, presumed1 := true } = true ∧
      ready.view.dupTimer = none ∧
      ({ ready with view := { ready.view with dupTimer := some 9 } } : State).view.dupTimer = some 9 ∧
      (∃ u, exec .duplicateExpiry { ready with
          view := { ready.view with dupTimer := some 9 }
          start := { ready.start with mode := .listen, configState := .unfrozen } } = .next u ∧ u.settled) := by
  refine ⟨rfl, rfl, heard_on_a_quiet_line _ _ rfl rfl (by decide +kernel),
    heard_on_a_quiet_line _ _ rfl rfl (by decide +kernel), by decide +kernel, by decide, by decide +kernel, rfl, rfl, rfl, rfl, rfl, rfl, rfl,
    ⟨after .duplicateExpiry { ready with
          view := { ready.view with dupTimer := some 9 }
          start := { ready.start with mode := .listen, configState := .unfrozen } }, rfl,
      by unfold State.settled; decide +kernel⟩⟩

theorem witness_ConsistRecordsAndSilentCabs :
    ready.held = false ∧ ready.settled ∧ ready.hears 1000 (consistFrame asksRaise) ∧
      ready.hears 1000 (consistFrame { asksRaise with block := some .default }) ∧
      parseFrame (consistFrame asksRaise) = some (.consist .a asksRaise) ∧
      parseFrame (consistFrame { asksRaise with block := some .default }) =
        some (.consist .a { asksRaise with block := some .default }) ∧
      asksRaise.active = true ∧ asksRaise.block = none ∧ (ready.view.slot .b).activeFresh = false ∧
      ready.start.mode ≠ .listen ∧ ready.start.configState ≠ .unfrozen ∧
      Settings.clamped { Settings.default with budget := 4001 } ≠ ready.start.config ∧
      (∃ u, exec (.consistRecord 1000 (consistFrame asksRaise)) ready = .next u ∧ u.settled) ∧
      (led.slot .a).activeFresh = true ∧ ready.view.mode = .gap ∧ ready.view.noCab = some 0 ∧
      (after .noCabStale ready).view.mode = .stale ∧ (after .noCabStale ready).view.noCab = some 0 ∧
      (after .noCabStale ready).settled := by
  refine ⟨rfl, rfl, heard_on_a_quiet_line _ _ rfl rfl (by decide +kernel),
    heard_on_a_quiet_line _ _ rfl rfl (by decide +kernel), by decide +kernel, by decide +kernel, rfl, rfl, rfl, by decide, by decide, by decide,
    ⟨after (.consistRecord 1000 (consistFrame asksRaise)) ready, rfl, by unfold State.settled; decide +kernel⟩, rfl, rfl, rfl,
    by decide +kernel, by decide +kernel, by unfold State.settled; decide +kernel⟩

/-! ### A station in order, for statements that ask for the blocks' own order -/

theorem attention_in_order (s : State) (h : s.att = .initial) : s.attentionOk := by
  unfold State.attentionOk
  rw [h]
  exact ⟨by decide, by decide, fun c => by cases c <;> decide⟩

theorem detection_in_order (s : State) (h : s.att = .initial) : s.detectedRight := by
  intro c
  rw [h]
  have h0 : CauseSet.has Attention.initial.latched c = false := by cases c <;> decide
  have h1 : CauseSet.has Attention.initial.detected c = false := by cases c <;> decide
  rw [h0, h1]
  simp

/-- P1 with some record under the sole cab A, in some course of the changeover, at the end of a gate. -/
def atGate (d : Drive) (c : Changeover) (crossings level : Nat) (before : LineClass) : State :=
  { obeying (withP1 d) with chg := c, sense := { gateOf crossings level with newer := some before } }

/-- P1 at rest, in RISING or in CONTACT: the drives are in order, none bids, and what is up lies off its rest. -/
theorem drives_in_order (s : State) (h2 : s.drive2 = ready.drive2)
    (h1 : s.drive1 = ready.drive1 ∨ s.drive1 = contact 2000 ∨ s.drive1 = rising 900) :
    s.coursesOk ∧ s.raisedOffRest ∧ s.oneEngaged ∧ ∀ p, (s.drive p).state.inBid = false := by
  have hd : ∀ p, s.drive p = match p with | .p1 => s.drive1 | .p2 => s.drive2 := fun p => by cases p <;> rfl
  have hc : ready.drive1.courseOk ∧ ready.drive2.courseOk ∧ (contact 2000).courseOk ∧ (rising 900).courseOk := by
    refine ⟨?_, ?_, ?_, ?_⟩ <;> unfold Drive.courseOk <;> decide
  rcases h1 with h1 | h1 | h1 <;>
    refine ⟨⟨?_, ?_⟩, fun p => ?_, ?_, fun p => ?_⟩ <;> (try cases p) <;>
      simp only [State.oneEngaged, hd, h1, h2] <;> first | exact hc.1 | exact hc.2.1 | exact hc.2.2.1 | exact hc.2.2.2 | decide

/-- A course of the changeover with no transit and its request OPEN. -/
def course (ph : Phase) (closed : Bool) : Changeover := { Changeover.initial 0 true false closed with phase := ph }

/-- Peers that announce AC15 and DEAD where the station confirms AC25, and one that agrees. -/
def sees (x : LineClass) : PeerEntry := .fresh 2 { statusOfStation ready with confirmed := x } 0

/-- The gate end that confirms AC25 over CONFIRMING, beside a peer that announces AC15. -/
def disputed : State :=
  { atGate (contact 2000) (course .confirming false) 24 225 (.sys .ac25) with
    view := { led with table := [sees (.sys .ac15)], disagree := 1 } }

theorem witness_SenseDisagreementIsCounted :
    disputed.held = false ∧ disputed.settled ∧ disputed.sense.position = 480 ∧
      (∃ u, exec .gateEnd disputed = .next u ∧ u.settled ∧ u.chg.phase = .steady ∧ u.sense.confirmed = .sys .ac25 ∧
        u.view.disagree = 2) ∧
      (sees (.sys .ac15)).stale = false ∧ (sees .dead).record.confirmed = .dead :=
  ⟨rfl, rfl, rfl, ⟨after .gateEnd disputed, rfl, by unfold State.settled; decide +kernel, by decide +kernel,
    by decide +kernel, by decide +kernel⟩, rfl, rfl⟩

/-- The record of a peer whose P1, an AC head tagged AC25, is in some state at some position. -/
def shows (x : PState) (position : Nat) : StatusRecord :=
  { statusOfStation ready with
    panto1 := { (statusOfStation ready).panto1 with headKind := .ac, state := x, tag := some .ac25, position := position } }

/-- P1 in CONTACT at 4 m, or in PREHEAT there. -/
def train (d : Drive) : State := { obeying (withP1 d) with chg := course .ready false }

/-- A peer in CONTACT at 100 m has the better rank and stands too close; one in DROPPED at 0 m stands ahead. -/
theorem witness_YieldAndPeerDropAhead :
    (∀ x n, x = PState.contact ∨ x = .dropped → n = 0 ∨ n = 100 →
      parseFrame (ValidFrame.status 2 (shows x n)).bytes = some (.status 2 (shows x n)) ∧
        (train (contact 2000)).hears 1000 (ValidFrame.status 2 (shows x n)).bytes) ∧
      (train (contact 2000)).held = false ∧ (train (contact 2000)).settled ∧ (train (contact 2000)).coursesOk ∧
      (train (contact 2000)).oneEngaged ∧ (train (contact 2000)).attentionOk ∧ (train (contact 2000)).detectedRight ∧
      (train (contact 2000)).protected ∧ 2 ≠ (train (contact 2000)).start.address ∧
      ((train (contact 2000)).drive .p1).tag = some .ac25 ∧ ((train (contact 2000)).drive .p1).state.up = true ∧
      ((train (preheating 9)).drive .p1).state = .preheat ∧ ((train (preheating 9)).drive .p1).angle ≤ 40 ∧
      mustYield { train (contact 2000) with view := { led with table := [.fresh 2 (shows .contact 100) 0] } } .p1 = true ∧
      mustYield { train (preheating 9) with view := { led with table := [.fresh 2 (shows .contact 100) 0] } } .p1 = true ∧
      mustYield { train (contact 2000) with view := { led with table := [.fresh 2 (shows .dropped 0) 0] } } .p1 = false ∧
      dropAheadStands { train (contact 2000) with view := { led with table := [.fresh 2 (shows .dropped 0) 0] } } = true ∧
      dropAheadStands { train (contact 2000) with view := { led with table := [.fresh 2 (shows .dropped 100) 0] } } =
        false ∧
      CauseSet.has (train (contact 2000)).start.config.enables .peerDropAhead = true ∧
      CauseSet.has (train (contact 2000)).att.pending .peerDropAhead = false := by
  have h := drives_in_order (train (contact 2000)) rfl (.inr (.inl rfl))
  refine ⟨?_, rfl, rfl, h.1, h.2.2.1, attention_in_order _ rfl, detection_in_order _ rfl,
    fun g => absurd g (by decide), by decide, rfl, rfl, rfl, by decide, by decide, by decide, by decide, by decide,
    by decide, by decide, by decide⟩
  rintro x n (rfl | rfl) (rfl | rfl) <;>
    exact ⟨by decide +kernel, heard_on_a_quiet_line _ _ rfl rfl (by decide +kernel)⟩

/-- P1 bidding, two of its frames sent, in READY on the AC side of a dead line. -/
def bidder (angle : Nat) : State :=
  { obeying (withP1 { bidding with angle := angle, restClosed := false }) with
    chg := { Changeover.initial 0 true false false with phase := .ready }
    adm := { Admission.initial with
      bidder := some .p1, openBid := some .p1, frameCount := 2, windowTimer := some 60000, windowEnded := false
      bidTimer := some 2000000 } }

/-- The same station after its window timer, with the second of its frames on the line. -/
def reported : State :=
  { bidder 40 with
    adm := { (bidder 40).adm with frameCount := 1, windowTimer := none }
    port := { (bidder 40).port with
      frame := .sending, activeFrom := some 0, snapshot := some { record := statusOfStation (bidder 40), taken := 0 } } }

theorem witness_BidWindowAndBidTimer :
    (bidder 40).held = false ∧ (bidder 40).settled ∧ (bidder 40).adm.windowTimer = some 60000 ∧
      (bidder 40).adm.frameCount = 2 ∧ (bidder 40).adm.windowEnded = false ∧ (bidder 40).adm.bidder = some .p1 ∧
      ((bidder 40).drive .p1).state = .bidding ∧ admissible (bidder 40) .p1 = true ∧
      admissible { bidder 40 with
        sense := { Sense.initial with confirmed := .dead }
        view := { led with table := [peer 2] } } .p1 = false ∧
      ((bidder 40).drive .p1).restClosed = false ∧ preheatApplies (bidder 40) .p1 = false ∧
      preheatApplies { bidder 40 with heat := { (bidder 40).heat with level := .heavy } } .p1 = true ∧
      (bidder 40).chg.lineDead = false ∧ (bidder 40).clearAhead ∧ ((bidder 40).drive .p1).fitted = true ∧
      mustYield (bidder 40) .p1 = false ∧ reported.port.frame = .sending ∧ reported.adm.windowTimer = none ∧
      1 ≤ reported.adm.frameCount ∧ CauseSet.has reported.att.pending .lineFault = false ∧
      (∃ y, reported.port.snapshot = some y ∧ (y.record.panto .p1).state = .bidding ∧ reported.adm.bidStart ≤ y.taken) ∧
      admissible reported .p1 = true ∧
      (bidder 40).adm.bidTimer = some 2000000 ∧ ((bidder 40).drive .p1).angle ≤ 40 ∧
      40 < ((bidder 41).drive .p1).angle ∧ ready.adm.windowTimer = none ∧ ready.adm.bidTimer = none := by
  refine ⟨rfl, rfl, rfl, rfl, rfl, rfl, rfl, by decide, by decide, rfl, by decide, by decide, rfl,
    ⟨rfl, by decide, fun e h => by cases h⟩, rfl, by decide, rfl, rfl, by decide, by decide, ⟨_, rfl, rfl, by decide⟩,
    by decide, rfl, by decide, by decide, rfl, rfl⟩

/-- P1 at the end of a holdoff, in READY on the AC side. -/
def heldOff : State :=
  { obeying ready with
    chg := { Changeover.initial 0 true false false with phase := .ready }
    adm := { Admission.initial with holdoff := some 1000000 } }

/-- P1 in PREHEAT with its head heater on since moment 0. -/
def warming : State :=
  { obeying (withP1 (preheating 9)) with
    chg := { Changeover.initial 0 true false true with phase := .ready }
    adm := { Admission.initial with
      bidder := some .p1, openBid := some .p1, preheatTimer := some 90000000, heatedSince := some 0 } }

theorem witness_HoldoffEndsAndPreheatEnds :
    heldOff.held = false ∧ heldOff.settled ∧ heldOff.adm.holdoff = some 1000000 ∧
      heldOff.view.heldValues.system = some .ac25 ∧
      startConditions ((heldOff.advance 1000000).withAdm { heldOff.adm with holdoff := none }) .ac25 = true ∧
      heldOff.chg.lineDead = false ∧ ready.view.heldValues.system = none ∧
      startConditions { heldOff with drive1 := dropped, drive2 := dropped } .ac25 = false ∧ warming.settled ∧
      warming.adm.bidder = some .p1 ∧ (warming.drive .p1).state = .preheat ∧ (warming.drive .p1).restClosed = false ∧
      (warming.drive .p1).fitted = true ∧ warming.clearAhead ∧ mustYield warming .p1 = false ∧
      warming.adm.preheatTimer = some 90000000 ∧ warming.adm.heatedSince = some 0 ∧
      warming.adm.heated < warming.start.config.preheat * Config.second ∧ ready.adm.holdoff = none ∧
      ready.adm.bidder = none := by
  refine ⟨rfl, rfl, rfl, rfl, by decide, rfl, rfl, by decide, rfl, rfl, rfl, rfl, rfl, ⟨rfl, by decide, fun e h => by cases h⟩,
    by decide, rfl, rfl, by decide, rfl, rfl⟩

/-- One gate end for every course that `PhasesAtAGateEnd` speaks of. -/
theorem witness_PhasesAtAGateEnd :
    (∀ d c k l x, d = ready.drive1 ∨ d = contact 2000 ∨ d = rising 900 →
      (atGate d c k l x).held = false ∧ (atGate d c k l x).settled ∧ (atGate d c k l x).sense.position = 480 ∧
        (atGate d c k l x).raisedOffRest ∧ (atGate d c k l x).coursesOk ∧ (atGate d c k l x).attentionOk ∧
        (atGate d c k l x).detectedRight ∧ (∀ p, ((atGate d c k l x).drive p).state.inBid = false) ∧
        CauseSet.has (atGate d c k l x).att.pending .wrongSystem = false ∧
        CauseSet.has (atGate d c k l x).att.pending .overvoltage = false) ∧
      (atGate ready.drive1 steady 0 0 .dead).sense.gateEnd.confirmed = .dead ∧
      (atGate ready.drive1 steady 24 225 (.sys .ac25)).sense.gateEnd.confirmed = .sys .ac25 ∧
      (atGate ready.drive1 steady 24 261 .dead).sense.gateEnd.confirmed = .over ∧
      (atGate ready.drive1 steady 0 15 (.sys .dc1k5)).sense.gateEnd.confirmed = .sys .dc1k5 ∧
      classify 0 0 = .dead ∧ classify 24 225 ≠ .dead ∧
      (atGate (contact 2000) steady 0 0 .dead).anyContact = true ∧
      (atGate (rising 900) steady 0 0 .dead).anyContact = false ∧
      (atGate (rising 900) (course .steady false) 0 0 .dead).notYetSafe ∧
      ¬(atGate ready.drive1 (course .steady false) 0 0 .dead).notYetSafe ∧
      (after .gateEnd (atGate (contact 2000) (course .clear false) 0 0 .dead)).chg.phase = .ready ∧
      (after .gateEnd (atGate (contact 2000) (course .confirming false) 24 225 (.sys .ac25))).chg.close = true ∧
      (after .gateEnd (atGate (contact 2000) steady 0 15 (.sys .dc1k5))).chg.phase = .mismatch ∧
      (∃ u, exec .gateEnd (atGate (contact 2000) steady 0 0 .dead) = .next u ∧ u.settled) := by
  refine ⟨fun d c k l x hd => ?_, by decide, by decide, by decide, by decide, by decide, by decide, by decide, by decide,
    Or.inr ⟨.p1, by decide, by decide⟩, ?_, by decide +kernel, by decide +kernel, by decide +kernel,
    ⟨after .gateEnd (atGate (contact 2000) steady 0 0 .dead), rfl, by unfold State.settled; decide +kernel⟩⟩
  · have h := drives_in_order (atGate d c k l x) rfl hd
    exact ⟨rfl, rfl, rfl, h.2.1, h.1, attention_in_order _ rfl, detection_in_order _ rfl, h.2.2.2, by show CauseSet.has 0 .wrongSystem = false; decide, by show CauseSet.has 0 .overvoltage = false; decide⟩
  · rintro (h | ⟨p, h⟩)
    · cases h
    · cases p <;> exact absurd h (by decide)

/-- WRONG_SYSTEM acknowledged on a live line, at the gate end that confirms DEAD. -/
def acknowledged : State :=
  { atGate ready.drive1 (course .mismatch false) 0 0 .dead with
    att := { ready.att with
      latched := CauseSet.add 0 .wrongSystem, pending := CauseSet.add 0 .wrongSystem
      detected := CauseSet.add 0 .wrongSystem, level := 1, leading := 3 } }

theorem witness_PhasesAtAGateEnd_acknowledged :
    acknowledged.held = false ∧ acknowledged.settled ∧ acknowledged.sense.position = 480 ∧ acknowledged.attentionOk ∧
      acknowledged.detectedRight ∧ acknowledged.chg.phase = .mismatch ∧
      CauseSet.has acknowledged.att.latched .wrongSystem = true ∧
      CauseSet.has acknowledged.att.pending .wrongSystem = true ∧ acknowledged.sense.confirmed ≠ .dead ∧
      acknowledged.sense.gateEnd.confirmed = .dead ∧ (after .gateEnd acknowledged).chg.phase = .ready ∧
      ∃ u, exec .gateEnd acknowledged = .next u ∧ u.settled :=
  ⟨rfl, rfl, rfl, ⟨by decide, by decide, fun c => by cases c <;> decide⟩, fun c => by cases c <;> decide, rfl, by decide,
    by decide, by decide, by decide, by decide +kernel, after .gateEnd acknowledged, rfl, by unfold State.settled; decide +kernel⟩

/-- P1 in CONTACT or at rest under the sole cab A, in some course of the changeover, at a consist record. -/
def commanded (d : Drive) (c : Changeover) : State := { obeying (withP1 d) with chg := c }

theorem course_in_order (s : State) (ph : Phase) (closed : Bool)
    (h : s.chg = { course ph closed with disagree := none } ∨ s.chg = course ph true) : s.changeoverOk := by
  unfold State.changeoverOk
  rcases h with h | h <;> rw [h] <;> cases ph <;> cases closed <;>
    exact ⟨by decide, fun side => by cases side <;> decide, by decide, by decide, by decide, by decide⟩

theorem witness_PhasesAtADemandChange :
    (∀ d c, d = ready.drive1 ∨ d = contact 2000 ∨ d = rising 900 →
      (commanded d c).held = false ∧ (commanded d c).settled ∧ (commanded d c).coursesOk ∧
        (commanded d c).raisedOffRest ∧ (commanded d c).attentionOk ∧ (commanded d c).detectedRight ∧
        (∀ p, ((commanded d c).drive p).state.inBid = false) ∧
        (∀ x, CauseSet.has (commanded d c).att.pending x = false) ∧ (commanded d c).view.mode = .sole .a ∧
        ((commanded d c).view.slot CabEnd.a.other).activeFresh = false ∧
        min 400 asksRaise.speed = (commanded d c).view.heldValues.speed ∧
        asksRaise.direction = (commanded d c).view.heldValues.direction ∧
        (∀ f, f.length ≤ 45 → (commanded d c).hears 1000 f)) ∧
      (∀ ph, (commanded ready.drive1 { course ph false with disagree := none }).changeoverOk ∧
        (commanded (contact 2000) (course ph true)).changeoverOk) ∧
      (commanded ready.drive1 moving).changeoverOk ∧ moving.target = some .dc ∧
      parseFrame (consistFrame { asksRaise with system := some .dc3 }) = some (.consist .a { asksRaise with system := some .dc3 }) ∧
      parseFrame (consistFrame { asksRaise with demand := .prepare }) =
        some (.consist .a { asksRaise with demand := .prepare }) ∧
      (consistFrame { asksRaise with system := some .dc3 }).length ≤ 45 ∧
      (consistFrame { asksRaise with demand := .prepare }).length ≤ 45 ∧
      (commanded (contact 2000) (course .confirming true)).preparesAt { asksRaise with system := some .dc3 } ∧
      (commanded (contact 2000) (course .confirming true)).notYetSafe ∧
      ¬(commanded ready.drive1 (course .confirming false)).notYetSafe ∧
      ¬(commanded ready.drive1 (course .steady false)).preparesAt asksRaise ∧
      (course .ready false).selector = .onSide System.ac15.side ∧ (course .ready false).selector ≠ .onSide System.dc3.side ∧
      (course .ready false).validFor System.dc3.side = false ∧
      (after (.consistRecord 1000 (consistFrame { asksRaise with system := some .dc3 }))
        (commanded (contact 2000) (course .confirming true))).chg.phase = .preparing ∧
      (after (.consistRecord 1000 (consistFrame { asksRaise with system := some .dc3 }))
        (commanded ready.drive1 (course .ready false))).chg.phase = .selecting ∧
      (∃ u, exec (.consistRecord 1000 (consistFrame { asksRaise with system := some .dc3 }))
        (commanded (contact 2000) (course .confirming true)) = .next u ∧ u.settled) := by
  refine ⟨fun d c hd => ?_, fun ph => ⟨course_in_order _ ph false (.inl rfl), course_in_order _ ph true (.inr rfl)⟩,
    moving_ok _ rfl, rfl, by decide +kernel, by decide +kernel, by decide +kernel, by decide +kernel,
    Or.inr (Or.inl ⟨rfl, Or.inr (by decide)⟩), Or.inl rfl, ?_, ?_, rfl, by decide, by decide, by decide +kernel,
    by decide +kernel, ⟨after (.consistRecord 1000 (consistFrame { asksRaise with system := some .dc3 }))
      (commanded (contact 2000) (course .confirming true)), rfl, by unfold State.settled; decide +kernel⟩⟩
  · have h := drives_in_order (commanded d c) rfl hd
    refine ⟨rfl, rfl, h.1, h.2.1, attention_in_order _ rfl, detection_in_order _ rfl, h.2.2.2, fun x => ?_, rfl, rfl,
      by show min 400 asksRaise.speed = (commanded ready.drive1 steady).view.heldValues.speed; decide, rfl,
      fun f hf => heard_on_a_quiet_line _ f rfl rfl hf⟩
    show CauseSet.has 0 x = false
    cases x <;> decide
  · rintro (h | ⟨p, h⟩)
    · cases h
    · cases p <;> exact absurd h (by decide)
  · rintro (⟨_, h | h⟩ | ⟨h, _⟩ | ⟨h, _⟩)
    · exact absurd h.1 (by decide)
    · exact h.1 rfl
    · cases h
    · cases h

theorem witness_TransitsEndAndStartAnew :
    ({ ready with chg := moving } : State).held = false ∧ ({ ready with chg := moving } : State).settled ∧
      ({ ready with chg := moving } : State).changeoverOk ∧ moving.transit = some 3000000 ∧ moving.pause = none ∧
      ({ ready with chg := paused } : State).changeoverOk ∧ paused.pause = some 200000 ∧ paused.target = some .dc ∧
      paused.transit = none ∧ paused.validFor .dc = false ∧
      ({ ready with chg := { paused with endDC := true } } : State).changeoverOk ∧
      Changeover.validFor { paused with endDC := true } .dc = true := by
  refine ⟨rfl, rfl, moving_ok _ rfl, rfl, rfl, paused_ok _ rfl, rfl, rfl, rfl, rfl, ?_, rfl⟩
  unfold State.changeoverOk
  exact ⟨by decide, fun side => by cases side <;> decide, by decide, by decide, by decide, by decide⟩

theorem witness_EndSwitchMovesThePosition :
    ({ ready with chg := moving } : State).changeoverOk ∧
      Changeover.validFor { moving with endDC := true } .dc = true ∧ moving.target = some .dc ∧
      moving.transit.isSome = true ∧ moving.pause = none ∧ paused.transit = none ∧
      ready.changeoverOk ∧ ready.chg.selector = .onSide .ac ∧ ready.chg.endAC = true ∧ ready.chg.endDC = false ∧
      Changeover.validFor { ready.chg with endAC := false } .ac = false ∧
      Changeover.selector { ready.chg with selector := .lost } = .lost ∧
      CauseSet.has (CauseSet.add 0 .selectorFail) .selectorFail = true ∧
      (∃ u, exec (.endSwitchChange 5 true false) { ready with
          chg := { ready.chg with selector := .lost, endAC := false }
          att := { ready.att with latched := CauseSet.add 0 .selectorFail, pending := CauseSet.add 0 .selectorFail } } =
        .next u ∧ u.settled) := by
  refine ⟨moving_ok _ rfl, by decide, rfl, rfl, rfl, rfl, ?_, rfl, rfl, rfl, rfl, rfl, by decide,
    ⟨after (.endSwitchChange 5 true false) { ready with
          chg := { ready.chg with selector := .lost, endAC := false }
          att := { ready.att with latched := CauseSet.add 0 .selectorFail, pending := CauseSet.add 0 .selectorFail } },
      rfl, by unfold State.settled; decide +kernel⟩⟩
  unfold State.changeoverOk
  exact ⟨by decide, fun side => by cases side <;> decide, by decide, by decide, by decide, by decide⟩

theorem witness_BreakerFeedbackIsWatched :
    ready.held = false ∧ ready.settled ∧ ready.chg.closed = false ∧ ready.chg.closed ≠ true ∧ ready.chg.disagree = none ∧
      (Changeover.initial 0 true false true).disagree = some 500000 ∧
      CauseSet.has ready.att.pending .breakerFail = false ∧ ready.chg.close = false := by unfold State.settled; decide

theorem witness_CurrentSamplesMakeArcs :
    (withP1 (contact 2000)).held = false ∧ (withP1 (contact 2000)).settled ∧
      4095 = min 4095 ((some 4096 : Option Nat).getD 0) ∧ 0 = min 4095 ((none : Option Nat).getD 0) ∧
      ((withP1 (contact 2000)).drive .p1).fitted = true ∧ (State.reset.drive .p1).fitted = false ∧
      ((withP1 (contact 2000)).arc.channel .p1).watch = .off ∧
      20 ≤ Channel.mean { Channel.initial with watch := .watching, mean := 20 } ∧ 0 < 20 / 20 ∧ ¬1 < 20 / 20 ∧
      Channel.length { Channel.initial with watch := .interrupted, threshold := 15, length := 2000 } = 2000 ∧
      14 < Channel.threshold { Channel.initial with watch := .interrupted, threshold := 15, length := 4 } ∧
      Channel.watch { Channel.initial with watch := .lost } = .lost := by unfold State.settled; decide

theorem witness_AssessmentStepsTheIceIndex :
    running.held = false ∧ running.settled ∧ running.arc.assess = some 1000000 ∧
      [0, 0, 0, 0, 0, 0, 0, 0, 0, 0] = running.arc.ring.drop 1 ++ [running.arc.second] ∧
      ((0 : Nat) : Int) = (running.heat.index : Int) - ((running.heat.index + 63) / 64 : Nat)
        + min 150 (max 0 (-running.heat.temperature)) * min 30 ((running.heat.humidity - 70 : Nat) : Int)
        + 64 * running.arc.second ∧
      (∃ u, exec .assessmentExpiry running = .next u ∧ u.settled) ∧
      ({ running with arc := { running.arc with assess := none } } : State).arc.assess = none := by
  refine ⟨rfl, rfl, rfl, rfl, by decide, ⟨after .assessmentExpiry running, rfl, by unfold State.settled; decide +kernel⟩,
    rfl⟩

/-- A load that comes into PWM, one that is in PWM already, and a grant that is full. -/
theorem witness_LoadsTakeTheirShares :
    running.settled ∧ running.heatingRight ∧ (∃ u, step running = .next u ∧ u.settled) ∧
      shareOf heated 53 .insulator = .full ∧ shareOf heated 53 (.head .p1) = .part 43 ∧
      shareOf heated 53 (.head .p2) = .off ∧ heated.heat.forceOff = false ∧
      (∀ cur, (heated.heat.load (.head .p1)).output ≠ .pwm cur) ∧
      (heated.heat.apportioned heated 53 (.head .p1)).output = .pwm 43 ∧ loadFitted heated .insulator = true ∧
      (heated.heat.load .insulator).isOn ≠ (heated.heat.apportioned heated 53 .insulator).isOn ∧
      loadFitted State.reset .insulator = false := by
  refine ⟨rfl, ⟨by decide, by decide, by decide, fun l => ?_⟩, ⟨_, running_steps, running_settles⟩, by decide, by decide,
    by decide, rfl, fun cur h => (by cases h), by decide, by decide, by decide, by decide⟩
  rcases l with _ | p
  · exact (rfl : Output.off = .off)
  · cases p <;> exact (rfl : Output.off = .off)

/-- The insulator heater at a duty of 43 per cent, in the on part of a period that ends at 10 s. -/
def pulsed : State :=
  { ready with heat := { ready.heat with insulator :=
    { LoadState.initial true with output := .pwm 43, onPart := true, period := some 10000000, pendingDuty := some 66 } } }

theorem witness_HeaterLoadsFollowTheirTimers :
    pulsed.held = false ∧ pulsed.settled ∧ (pulsed.heat.load .insulator).output = .pwm 43 ∧
      (pulsed.heat.load .insulator).period = some 10000000 ∧ (pulsed.heat.load .insulator).onPart = true ∧
      loadFitted pulsed .insulator = true ∧ (pulsed.heat.load .insulator).feedback ≠ false ∧
      (ready.heat.load .insulator).period = none ∧ loadFitted State.reset .insulator = false ∧
      (pulsed.heat.load .insulator).watch = none ∧
      (∃ u, exec (.heaterDisagreeExpiry .insulator) { pulsed with heat := { pulsed.heat with
        insulator := { pulsed.heat.insulator with watch := some 2000000 } } } = .next u ∧ u.settled) := by
  refine ⟨rfl, rfl, rfl, rfl, rfl, rfl, by decide, rfl, rfl, rfl,
    ⟨after (.heaterDisagreeExpiry .insulator) { pulsed with heat := { pulsed.heat with
        insulator := { pulsed.heat.insulator with watch := some 2000000 } } }, rfl,
      by unfold State.settled; decide +kernel⟩⟩

/-- The orders of the statements on orders are heard on the line of `ready`. -/
theorem orders_heard (s : State) (k : OrderKind) (hp : s.port = ready.port) (hn : s.now = 0) :
    s.hears 1000 (orderFrame k 1) := by
  cases k <;> exact heard_on_a_quiet_line s _ hp hn (by decide +kernel)

/-- The orders of `witness_OrdersAreRecorded` and those after it, as a receiver reads them. -/
theorem orders_parse (k : OrderKind) :
    parseFrame (orderFrame k 1) = some (.order { sender := .a, target := 1, kind := k, arg := 1 }) := by
  cases k <;> decide +kernel

theorem witness_OrdersAreRecorded :
    (obeying ready).held = false ∧ (obeying ready).settled ∧ (obeying ready).hears 1000 (orderFrame .isolate 1) ∧
      ({ obeying ready with unlock := some 7, drive1 := { ready.drive1 with write := some .clear } } : State).refuses
        { sender := .a, target := 1, kind := .unlock, arg := 1 } .refusedBusy ∧
      parseFrame (orderFrame .isolate 1) = some (.order { sender := .a, target := 1, kind := .isolate, arg := 1 }) ∧
      Instr.isolate 1000 (orderFrame .isolate 1) ∈ orderCommands 1000 (orderFrame .isolate 1) ∧
      (∀ x, ¬(obeying ready).refuses { sender := .a, target := 1, kind := .isolate, arg := 1 } x) ∧
      (obeying ready).refuses { sender := .a, target := 1, kind := .isolate, arg := 3 } .refusedArg ∧
      (obeying ready).refuses { sender := .b, target := 1, kind := .isolate, arg := 1 } .refusedCab ∧
      (obeying ready).refuses { sender := .a, target := 1, kind := .unlock, arg := 1 } .refusedNotEnabled ∧
      1 = (obeying ready).start.address ∧ 2 ≠ (obeying ready).start.address ∧ 2 ≠ 0 := by
  refine ⟨rfl, rfl, heard_on_a_quiet_line _ _ rfl rfl (by decide +kernel),
    Or.inr (Or.inr (Or.inr ⟨rfl, ⟨.p1, ⟨rfl, Or.inl ⟨rfl, rfl⟩⟩, rfl, rfl⟩, rfl⟩)), orders_parse .isolate, by simp [orderCommands], ?_, ?_, ?_, ?_, rfl, by decide, by decide⟩
  · intro x h
    exact h.1 .p1 ⟨rfl, Or.inl ⟨rfl, rfl⟩⟩
  · exact ⟨fun p h => by rcases h.2 with h | h <;> exact absurd h.1 (by decide), rfl⟩
  · exact rfl
  · exact Or.inl ⟨rfl, rfl⟩

theorem witness_AcknowledgeClearsOrMarks :
    (obeying ready).held = false ∧ (obeying ready).settled ∧
      parseFrame (orderFrame .ackCause 1) = some (.order { sender := .a, target := 1, kind := .ackCause, arg := 1 }) ∧
      1 = Cause.overvoltage.number ∧
      (obeying ready).takes { sender := .a, target := 1, kind := .ackCause, arg := 1 } ∧
      CauseSet.has (CauseSet.add 0 .overvoltage) .overvoltage = true ∧ Cause.overvoltage.clearsItself = false ∧
      clearingHolds ready .overvoltage = true ∧
      clearingHolds { ready with sense := { ready.sense with confirmed := .over } } .overvoltage = false ∧
      Cause.demandLost.clearsItself = true ∧ (obeying ready).hears 1000 (orderFrame .ackCause 1) ∧
      dropAheadStands (obeying ready) = false ∧
      ∃ u, exec (.ackCause 1000 (orderFrame .ackCause 1)) (obeying ready) = .next u ∧ u.settled :=
  ⟨rfl, rfl, orders_parse .ackCause, rfl, ⟨rfl, Or.inl rfl⟩, by decide, rfl, by decide, by decide, rfl, orders_heard _ _ rfl rfl, rfl,
    after (.ackCause 1000 (orderFrame .ackCause 1)) (obeying ready), rfl, by unfold State.settled; decide +kernel⟩

theorem witness_DriveOrdersActOnThePantographTheyName :
    (obeying ready).held = false ∧ (obeying ready).settled ∧
      (∀ k, parseFrame (orderFrame k 1) = some (.order { sender := .a, target := 1, kind := k, arg := 1 }) ∧
        (obeying ready).takes { sender := .a, target := 1, kind := k, arg := 1 } ∧
        (obeying ready).hears 1000 (orderFrame k 1)) ∧
      ((obeying (withP1 bidding)).drive .p1).engaged = true ∧
      (obeying ready).names 1 .p1 ∧ (obeying ready).names 2 .p2 ∧
      ((obeying (withP1 (contact 2000))).drive .p1).state.up = true ∧
      ((obeying (withP1 (contact 2000))).drive .p1).restClosed = false ∧
      ({ obeying ready with unlock := some 7 } : State).unlock.isSome = true ∧
      ((obeying ready).drive .p1).state = .down ∧ ((obeying ready).drive .p1).write = none :=
  ⟨rfl, rfl, fun k => ⟨orders_parse k, ⟨rfl, Or.inl rfl⟩, orders_heard _ _ rfl rfl⟩, rfl, ⟨rfl, Or.inl ⟨rfl, rfl⟩⟩, ⟨rfl, Or.inr ⟨rfl, rfl⟩⟩, rfl, rfl, rfl,
    rfl, rfl⟩

theorem witness_ClearArcsAndRestart :
    (obeying ready).held = false ∧ (obeying ready).settled ∧
      parseFrame (orderFrame .restart 1) = some (.order { sender := .a, target := 1, kind := .restart, arg := 1 }) ∧
      (obeying ready).takes { sender := .a, target := 1, kind := .restart, arg := 1 } ∧
      parseFrame (orderFrame .clearArcs 1) = some (.order { sender := .a, target := 1, kind := .clearArcs, arg := 1 }) ∧
      (obeying ready).takes { sender := .a, target := 0, kind := .clearArcs, arg := 1 } ∧
      (obeying ready).mayRestart ∧ (obeying ready).hears 1000 (orderFrame .restart 1) ∧
      (obeying ready).hears 1000 (orderFrame .clearArcs 1) ∧
      ∃ u, exec (.restart 1000 (orderFrame .restart 1)) (obeying ready) = .next u ∧ u.settled :=
  ⟨rfl, rfl, orders_parse .restart, ⟨rfl, Or.inl rfl⟩, orders_parse .clearArcs, ⟨rfl, Or.inr ⟨rfl, Or.inr rfl⟩⟩,
    ⟨rfl, fun p _ => by cases p <;> rfl, rfl⟩, orders_heard _ _ rfl rfl,
    orders_heard _ _ rfl rfl, after (.restart 1000 (orderFrame .restart 1)) (obeying ready), rfl,
    by unfold State.settled; decide +kernel⟩

/-- A station with a status frame waiting. -/
def sending (frame : FramePending) (attempts : Nat) : State :=
  { ready with port := { ready.port with
    frame := frame, attempts := attempts, cadence := .running 20000, spacing := some 5000
    snapshot := some { record := statusOfStation (withP1 bidding), taken := 7 } } }

/-- First attempts at 48 bit times and retries at 128, and at one moment before. -/
theorem witness_StatusFramesFallDueAndStart :
    (sending .waiting 1).held = false ∧ (sending .waiting 1).settled ∧ (∀ d, ready.port.cadence ≠ .running d) ∧
      ready.port.spacing = none ∧ (sending .waiting 1).port.spacing = some 5000 ∧
      (sending .waiting 1).port.cadence = .running 20000 ∧ State.reset.start.mode = .listen ∧
      (sending .waiting 1).start.mode ≠ .listen ∧ (96 : Time) = 0 + 2 * 48 ∧ (waitingFrame 0).attemptAllowed 96 ∧
      ¬(waitingFrame 0).attemptAllowed 95 ∧ (waitingFrame 1).attemptAllowed 256 ∧ ¬(waitingFrame 1).attemptAllowed 255 :=
  ⟨rfl, rfl, fun _ h => by (change Cadence.stopped = _ at h; cases h), rfl, rfl, rfl, rfl, by decide, rfl,
    by unfold State.attemptAllowed; decide, by unfold State.attemptAllowed; decide,
    by unfold State.attemptAllowed; decide, by unfold State.attemptAllowed; decide⟩

theorem witness_CollisionsAndSuccesses :
    (sending .sending 6).held = false ∧ (sending .sending 6).settled ∧ (sending .sending 6).port.frame = .sending ∧
      (sending .sending 6).port.attempts + 1 < 8 ∧ 8 ≤ (sending .sending 7).port.attempts + 1 ∧
      3 ≤ ({ (sending .sending 7).port with abandonRun := 2 } : Port).abandonRun + 1 ∧
      ({ (sending .sending 7).port with abandonRun := 1 } : Port).abandonRun + 1 < 3 ∧ ready.port.frame ≠ .sending ∧
      (frameBits (sending .sending 6).sentFrame)[0]? = some false ∧ (frameBits (sending .sending 6).sentFrame)[8]? = some true ∧
      (frameBits (sending .sending 6).sentFrame)[7]? = some false ∧ (frameBits (sending .sending 6).sentFrame)[330]? = none ∧
      (∃ u, exec (.success 5) (sending .sending 6) = .next u ∧ u.settled) ∧ (bidder 0).adm.bidder = some .p1 ∧
      ((bidder 0).drive .p1).state = .bidding ∧ (bidder 0).adm.windowTimer.isSome = true ∧
      (bidder 0).adm.windowEnded = false ∧
      (∃ y, (sending .sending 6).port.snapshot = some y ∧ (y.record.panto .p1).state = .bidding ∧
        (bidder 0).adm.bidStart ≤ y.taken) :=
  ⟨rfl, rfl, rfl, by decide, by decide, by decide, by decide, by decide, by decide +kernel, by decide +kernel,
    by decide +kernel, by decide +kernel,
    ⟨after (.success 5) (sending .sending 6), rfl, by unfold State.settled; decide +kernel⟩, rfl, rfl, rfl, rfl,
    _, rfl, rfl, by decide⟩

/-- Frames that pass and that fail one check each, a frame on a line not idle, and a line at its 2 ms. -/
theorem witness_DamagedFramesAndAStuckLine :
    ready.held = false ∧ ready.settled ∧ framePasses (statusFrame 2) ∧ framePasses (orderFrame .restart 0) ∧
      framePasses (consistFrame asksRaise) ∧ parseFrame (statusFrame 2).dropLast = none ∧
      parseFrame ((statusFrame 2).set 3 0) = none ∧ parseFrame (frameOf 4 1 []) = none ∧
      parseFrame (ValidFrame.status 17 (statusOfStation ready)).bytes = none ∧
      Instr.statusRecord 1000 (statusFrame 2) ∈ frameCommands 1000 (statusFrame 2) ∧
      ¬({ ready with port := Port.initial 0 } : State).hears 1000 (statusFrame 2) ∧
      (Port.initial 0).activeFrom.isSome = true ∧ (Port.initial 0).frame ≠ .sending ∧ ready.port.hold = false ∧
      ready.port.activeFrom = none ∧ ready.port.idleFrom + 96 ≤ 96 := by
  refine ⟨rfl, rfl, ?_, ?_, ?_, by decide +kernel, by decide +kernel, by decide +kernel, by decide +kernel,
    by simp [frameCommands], ?_, rfl, by decide, rfl, rfl, by decide⟩
  · unfold framePasses pantoCodesFit; decide +kernel
  · unfold framePasses pantoCodesFit; decide +kernel
  · unfold framePasses pantoCodesFit; decide +kernel
  · rintro ⟨_, h | ⟨m, pre, _, h, _⟩⟩
    · exact absurd h.1 (by decide)
    · cases h

/-- A station in LISTEN at power-on. -/
def listening : State := { ready with start := { StartUp.initial 0 .zero with configState := .unfrozen } }

theorem witness_ListenAdoptAndFreezing :
    listening.held = false ∧ listening.settled ∧ listening.start.listen = some 1000000 ∧
      listening.start.mode = .listen ∧ listening.view.dupTimer = none ∧
      listening.start.configState = .unfrozen ∧ soleBlock listening.view = none ∧
      soleBlock { led with slotA := { led.slotA with record := some { asksRaise with block := some .default } } } =
        some .default ∧
      listening.port.frame = .none ∧ ready.start.listen = none ∧ ready.start.adopt = none ∧
      ({ listening with start := { listening.start with adopt := some 9, mode := .adopt } } : State).start.adopt = some 9 ∧
      Settings.inRange .default ∧
      ¬max 500 (min 3700 3500) < max 500 (min 3700 3500) :=
  ⟨rfl, rfl, rfl, rfl, rfl, rfl, rfl, by decide, rfl, rfl, rfl, rfl, table_in_order.2.1.2.2.2.2.2.2.2.1,
    by decide⟩

/-! ## Further clauses of the same statements, each at a state of its own -/

/-- A rise that takes contact with the line clear ahead, and one with a peer in DROPPED ahead of it. -/
def takes (table : List PeerEntry) : State :=
  { obeying (stillAt 1399 200000) with view := { led with table := table } }

theorem witness_ContactIsTakenInsideTheWindow_ahead :
    (takes []).attentionOk ∧ (takes []).detectedRight ∧ dropAheadStands (takes []) = false ∧
      dropAheadStands (takes [.fresh 2 (shows .dropped 0) 0]) = true ∧
      (takes [.fresh 2 (shows .dropped 0) 0]).protected ∧
      CauseSet.has (takes []).start.config.enables .peerDropAhead = true ∧
      ((after (.stillnessSpanEnd .p1) { takes [] with drive1 := { rising 1400 with still := [(0, 1400)] } }).drive .p1).state =
        .contact :=
  ⟨attention_in_order _ rfl, detection_in_order _ rfl, by decide, by decide, fun g => absurd g (by decide), by decide,
    by decide +kernel⟩

theorem witness_WireLossStallAndUpperStopLower_order :
    (withP1 { contact 2049 with wireLoss := some 100000 }).attentionOk ∧
      (withP1 { contact 2049 with wireLoss := some 100000 }).detectedRight ∧ (withP1 (rising 900)).attentionOk ∧
      (withP1 (rising 900)).detectedRight ∧ ((after (.raiseTimeout .p1) (withP1 (rising 900))).drive .p1).restClosed = false :=
  ⟨attention_in_order _ rfl, detection_in_order _ rfl, attention_in_order _ rfl, detection_in_order _ rfl,
    by decide +kernel⟩

/-- The boost at the entry to CONTACT (R14): 380 stays the lower of the two for a second. -/
theorem witness_PressureValueFeedsTheDropWatch_rise :
    (rising 1400).target < 440 ∧ (5, 380) ∈ ((rising 1400).retarget 5 440).oldTargets ∧
      ((rising 1400).retarget 5 440).reference 1000005 = 380 ∧
      (∃ u, exec (.pressureValue 5 .p1 none) (withP1 (contact 2000)) = .next u) ∧
      (Instr.pressureValue 5 .p1 none).isPower = false :=
  ⟨by decide, by decide, by decide, ⟨after (.pressureValue 5 .p1 none) (withP1 (contact 2000)), rfl⟩, rfl⟩

/-- The gate report holds the result, the level and the class after the gate (R40). -/
theorem witness_SamplesAndGatesAreCounted_report :
    closing.sense.report = { result := .sys .ac25, level := 225, confirmed := .sys .ac25 } ∧
      .chgGate closing.sense.report ∈ (senseGateEnd closing).now := by decide +kernel

/-- The record of cab B that makes the conflict. -/
def fromB : List Byte := (ValidFrame.consist .b asksRaise).bytes

theorem witness_ConsistRecordsAndSilentCabs_modes :
    (obeying ready).settled ∧
      (∃ u, exec (.consistRecord 1000 fromB) (obeying ready) = .next u ∧ u.settled ∧ u.view.mode = .conflict ∧
        u.view.mode ≠ (obeying ready).view.mode) ∧
      ∃ u, exec (.consistRecord 1000 (consistFrame asksRaise)) ready = .next u ∧ u.settled ∧ u.view.mode = .sole .a ∧
        u.view.mode ≠ ready.view.mode :=
  ⟨rfl, ⟨after (.consistRecord 1000 fromB) (obeying ready), rfl, by unfold State.settled; decide +kernel,
      by decide +kernel, by decide +kernel⟩,
    ⟨after (.consistRecord 1000 (consistFrame asksRaise)) ready, rfl, by unfold State.settled; decide +kernel,
      by decide +kernel, by decide +kernel⟩⟩

/-- `warming` with its head heater full on. -/
def heating : State :=
  { warming with
    heat := { warming.heat with head1 := { LoadState.initial false with output := .on } }
    pending := [.pressureValue 700 .p1 none] }

theorem witness_HoldoffEndsAndPreheatEnds_heated :
    heating.settled ∧ heating.heatedRight ∧ heating.preheats .p1 ∧ (heating.heat.load (.head .p1)).isOn = true ∧
      ∃ u, step heating = .next u ∧ u.settled ∧ u.preheats .p1 ∧ u.now = heating.now + 700 :=
  ⟨rfl, fun p h => match p, h with
    | .p1, _ => ⟨by decide, fun m g => by cases g; decide⟩
    | .p2, h => (by cases h.1), ⟨rfl, rfl⟩, rfl,
    stepped (.pressureValue 700 .p1 none) heating, rfl, by unfold State.settled; decide +kernel,
    ⟨by decide +kernel, by decide +kernel⟩, by decide +kernel⟩

/-- P1 in CONTACT in STEADY, whose selector slips off the AC side. -/
def slipping : State := { obeying (withP1 (contact 2000)) with chg := steady, pending := [.endSwitchChange 5 false false] }

theorem witness_EndSwitchMovesThePosition_serves :
    slipping.settled ∧ slipping.coursesOk ∧ slipping.engagedServed ∧
      (∃ u, step slipping = .next u ∧ u.settled ∧ u.chg.selector = .lost) ∧ slipping.attentionOk ∧
      slipping.detectedRight ∧ slipping.chg.selector = .onSide .ac ∧
      Changeover.validFor { slipping.chg with endAC := false, endDC := false } .ac = false ∧
      (slipping.drive .p1).fitted = true ∧ (slipping.drive .p1).state.up = true ∧
      (slipping.drive .p1).restClosed = false :=
  ⟨rfl, (drives_in_order slipping rfl (.inr (.inl rfl))).1,
    fun p h => match p, h with
    | .p1, _ => ⟨fun g => (by cases g), .ac25, rfl, rfl⟩
    | .p2, h => (by cases h),
    ⟨stepped (.endSwitchChange 5 false false) slipping, rfl, by unfold State.settled; decide +kernel, by decide +kernel⟩,
    attention_in_order _ rfl, detection_in_order _ rfl, rfl, rfl, rfl, rfl, rfl⟩

/-- P1 in FALLING normal with its breaker wait, in PREPARING under a closed feedback, and the same phase with P1 at rest. -/
def waits (d : Drive) : State := { withP1 d with chg := course .preparing true }

theorem witness_BreakerFeedbackIsWatched_opens :
    (waits falling).held = false ∧ (waits falling).settled ∧ (waits falling).chg.closed ≠ false ∧
      ((waits falling).drive .p1).state = .fallingNormal ∧ ((waits falling).drive .p1).breakerWait.isSome = true ∧
      ((waits falling).drive .p1).restClosed = false ∧ (waits falling).attentionOk ∧ (waits falling).detectedRight ∧
      ((waits falling).drive .p1).setpoint = .held 380 ∧ (waits falling).chg.phase = .preparing ∧
      (∀ p, ((waits ready.drive1).drive p).fitted = true →
        ((waits ready.drive1).drive p).state = .down ∨ ((waits ready.drive1).drive p).state = .dropped) ∧
      ∃ u, exec (.breakerFeedbackChange 5 false) (waits ready.drive1) = .next u ∧ u.settled ∧ u.chg.phase = .clear :=
  ⟨rfl, rfl, by decide, rfl, rfl, rfl, attention_in_order _ rfl, detection_in_order _ rfl, rfl, rfl,
    fun p _ => .inl (by cases p <;> rfl),
    after (.breakerFeedbackChange 5 false) (waits ready.drive1), rfl, by unfold State.settled; decide +kernel,
    by decide +kernel⟩

/-- P1 in CONTACT, the feedback open until the command closes it. -/
def unwatched : State :=
  { withP1 (contact 2000) with chg := course .confirming false, pending := [.breakerFeedbackChange 5 true] }

theorem witness_CurrentSamplesMakeArcs_watch :
    unwatched.settled ∧ unwatched.watchesRight ∧
      ∃ u, step unwatched = .next u ∧ u.settled ∧ (u.arc.channel .p1).watch = .watching :=
  ⟨rfl, fun p => by cases p <;> decide, stepped (.breakerFeedbackChange 5 true) unwatched, rfl,
    by unfold State.settled; decide +kernel, by decide +kernel⟩

theorem witness_StatusFramesFallDueAndStart_change :
    (withP1 (rising 900)).settled ∧ (withP1 (rising 900)).start.mode ≠ .listen ∧
      (withP1 (rising 900)).port.frame = .none ∧
      ∃ u, exec (.raiseTimeout .p1) (withP1 (rising 900)) = .next u ∧ u.settled ∧ u.start.mode ≠ .listen ∧
        (u.drive .p1).state ≠ ((withP1 (rising 900)).drive .p1).state :=
  ⟨rfl, by decide, rfl, after (.raiseTimeout .p1) (withP1 (rising 900)), rfl, by unfold State.settled; decide +kernel,
    by decide +kernel, by decide +kernel⟩

/-! ## Bidders, and the boundaries of the second report -/

/-- P1 in BIDDING with its window ended, on the AC side, in some phase under the sole cab A. -/
def awaits (angle : Nat) (ph : Phase) : State :=
  { bidder angle with
    chg := course ph false
    adm := { (bidder angle).adm with windowTimer := none, windowEnded := true } }

/-- A bid that stands: the selector and the admission unit are in order with it. -/
theorem bid_in_order (s : State) (h1 : s.drive1 = (bidder 40).drive1) (h2 : s.drive2 = ready.drive2)
    (hb : s.adm.bidder = some .p1) (hd : s.view.demand = .raise) (hm : s.view.mode = .sole .a ∨ s.view.mode = .gap)
    (hx : s.view.heldValues.system = some .ac25) (ha : s.att = .initial) (hs : s.chg.selector = .onSide .ac)
    (hp : s.chg.phase = .steady ∨ s.chg.phase = .ready ∨ s.chg.phase = .confirming) :
    s.engagedServed ∧ s.attentionOk ∧ s.detectedRight := by
  refine ⟨fun p h => ?_, attention_in_order s ha, detection_in_order s ha⟩
  cases p
  · refine ⟨fun _ => ⟨hb, hd, ?_, ?_, fun _ => ?_, ?_, ?_, hp⟩, .ac25, ?_, hs⟩
    iterate 3 (rcases hm with hm | hm <;> rw [hm] <;> decide)
    · rw [hx, show s.drive .p1 = s.drive1 from rfl, h1]; rfl
    · rw [ha]; decide
    · rw [show s.drive .p1 = s.drive1 from rfl, h1]; rfl
  · rw [show s.drive .p2 = s.drive2 from rfl, h2] at h; cases h

/-- A success under the window timer, and one that brings the count to 1: the window goes on. -/
theorem witness_BidWindowAndBidTimer_goes_on :
    reported.held = false ∧ reported.settled ∧ reported.adm.windowEnded = false ∧
      ({ reported.adm with windowTimer := some 60000 } : Admission).windowTimer.isSome = true ∧
      (after (.success 700) { reported with adm := { reported.adm with windowTimer := some 60000 } }).adm.frameCount = 2 ∧
      (after (.success 700) { reported with adm := { reported.adm with windowTimer := some 60000 } }).adm.windowEnded =
        false ∧
      (after (.success 700) { reported with adm := { reported.adm with frameCount := 0 } }).adm.frameCount = 1 ∧
      (after (.success 700) { reported with adm := { reported.adm with frameCount := 0 } }).adm.windowEnded = false :=
  ⟨rfl, rfl, rfl, rfl, by decide +kernel, by decide +kernel, by decide +kernel, by decide +kernel⟩

/-- The record of cab A that names another speed and direction. -/
def faster : ConsistRecord := { asksRaise with speed := 401, direction := .bLeading }

/-- What the view holds under it. -/
def fasterView : PeerView :=
  { led with heldValues := { led.heldValues with speed := 400, direction := .bLeading } }

theorem witness_BidWindowAndBidTimer_tests_again :
    (awaits 40 .ready).held = false ∧ (awaits 40 .ready).settled ∧ (awaits 40 .ready).engagedServed ∧
      (awaits 40 .ready).oneEngaged ∧ (awaits 40 .ready).adm.bidder = some .p1 ∧
      ((awaits 40 .ready).drive .p1).state = .bidding ∧ (awaits 40 .ready).adm.windowEnded = true ∧
      CauseSet.has (awaits 40 .ready).att.pending .peerDropAhead = false ∧
      parseFrame (consistFrame faster) = some (.consist .a faster) ∧ (awaits 40 .ready).hears 1000 (consistFrame faster) ∧
      (awaits 40 .ready).view.mode = .sole .a ∧ ((awaits 40 .ready).view.slot .b).activeFresh = false ∧
      faster.active = true ∧ faster.block = none ∧ faster.demand = .raise ∧
      faster.system = (awaits 40 .ready).view.heldValues.system ∧
      min 400 faster.speed ≠ (awaits 40 .ready).view.heldValues.speed ∧
      admissible { awaits 40 .ready with view := fasterView } .p1 = true ∧
      admissible { awaits 40 .ready with view := { fasterView with table := [.fresh 2 (shows .contact 30) 0] } } .p1 =
        false :=
  ⟨rfl, rfl, (bid_in_order _ rfl rfl rfl rfl (.inl rfl) rfl rfl rfl (.inr (.inl rfl))).1,
    fun h => absurd h.2 (by decide), rfl, rfl, rfl, by decide, by decide +kernel,
    heard_on_a_quiet_line _ _ rfl rfl (by decide +kernel), rfl, rfl, rfl, rfl, rfl, rfl, by decide, by decide, by decide⟩

/-- A bidder at the end of a gate, in some phase, the class confirmed before and the result before the gate. -/
def bidsAtGate (ph : Phase) (crossings level : Nat) (confirmed before : LineClass) : State :=
  { awaits 40 ph with sense := { gateOf crossings level with newer := some before, confirmed := confirmed } }

theorem bids_at_gate_in_order (ph : Phase) (k l : Nat) (x y : LineClass)
    (h : ph = .steady ∨ ph = .ready ∨ ph = .confirming) :
    (bidsAtGate ph k l x y).held = false ∧ (bidsAtGate ph k l x y).settled ∧ (bidsAtGate ph k l x y).sense.position = 480 ∧
      (bidsAtGate ph k l x y).engagedServed ∧ (bidsAtGate ph k l x y).attentionOk ∧ (bidsAtGate ph k l x y).detectedRight ∧
      (bidsAtGate ph k l x y).adm.bidder = some .p1 ∧ ((bidsAtGate ph k l x y).drive .p1).state = .bidding ∧
      (bidsAtGate ph k l x y).adm.windowEnded = true ∧ (bidsAtGate ph k l x y).anyContact = false := by
  obtain ⟨h1, h2, h3⟩ := bid_in_order (bidsAtGate ph k l x y) rfl rfl rfl rfl (.inl rfl) rfl rfl rfl h
  exact ⟨rfl, rfl, rfl, h1, h2, h3, rfl, rfl, rfl, rfl⟩

theorem witness_BidWindowAndBidTimer_tests_at_a_class_change :
    (bidsAtGate .confirming 24 225 .dead (.sys .ac25)).sense.gateEnd.confirmed = .sys .ac25 ∧
      classify 24 (480 * 225 / 480) = .sys .ac25 ∧
      LineClass.isSystem (.sys .ac25) (some .ac25) = true ∧
      admissible ((bidsAtGate .confirming 24 225 .dead (.sys .ac25)).withSense
        (bidsAtGate .confirming 24 225 .dead (.sys .ac25)).sense.gateEnd) .p1 = true ∧
      ((after .gateEnd (bidsAtGate .confirming 24 225 .dead (.sys .ac25))).drive .p1).state = .rising := by decide +kernel

/-- OVER, another system, and a dead line, each under a bidder (R72, R73). -/
theorem witness_PhasesAtAGateEnd_bidder :
    classify 24 (480 * 272 / 480) = .over ∧
      ((after .gateEnd (bidsAtGate .steady 24 272 (.sys .ac25) (.sys .ac25))).drive .p1).outcome = .protect ∧
      LineClass.live (classify 8 (480 * 135 / 480)) = true ∧ classify 8 (480 * 135 / 480) = .sys .ac15 ∧
      (bidsAtGate .confirming 8 135 .dead (.sys .ac15)).sense.gateEnd.confirmed = .sys .ac15 ∧
      LineClass.isSystem (.sys .ac15) (some .ac25) = false ∧
      ((after .gateEnd (bidsAtGate .confirming 8 135 .dead (.sys .ac15))).drive .p1).outcome = .withheld ∧
      classify 0 (480 * 0 / 480) = .dead ∧
      (bidsAtGate .steady 0 0 (.sys .ac25) .dead).sense.gateEnd.confirmed = .dead ∧
      ((after .gateEnd (bidsAtGate .steady 0 0 (.sys .ac25) .dead)).drive .p1).outcome = .withheld := by decide +kernel

/-- LOWER, and another demanded system, under a bidder that has crept to the edge of its rest and past it. -/
theorem witness_PhasesAtADemandChange_bidder :
    (awaits 40 .ready).engagedServed ∧
      (awaits 40 .ready).hears 1000 (consistFrame { faster with demand := .lower }) ∧
      (awaits 40 .ready).hears 1000 (consistFrame { asksRaise with system := some .ac15 }) ∧
      parseFrame (consistFrame { faster with demand := .lower }) = some (.consist .a { faster with demand := .lower }) ∧
      parseFrame (consistFrame { asksRaise with system := some .ac15 }) =
        some (.consist .a { asksRaise with system := some .ac15 }) ∧
      some System.ac15 ≠ ((awaits 40 .ready).drive .p1).tag ∧ ((awaits 40 .ready).drive .p1).state.inBid = true ∧
      ((awaits 40 .ready).drive .p1).angle ≤ 40 ∧ 40 < ((awaits 41 .ready).drive .p1).angle ∧
      ((awaits 41 .ready).drive .p1).restClosed = false ∧
      ((after (.consistRecord 1000 (consistFrame { faster with demand := .lower })) (awaits 40 .ready)).drive .p1).outcome =
        .withheld :=
  ⟨(bid_in_order _ rfl rfl rfl rfl (.inl rfl) rfl rfl rfl (.inr (.inl rfl))).1,
    heard_on_a_quiet_line _ _ rfl rfl (by decide +kernel), heard_on_a_quiet_line _ _ rfl rfl (by decide +kernel),
    by decide +kernel, by decide +kernel, by decide, rfl, by decide, by decide, rfl, by decide +kernel⟩

/-- A peer's record under a bidder whose window has ended: the test passes, and the test fails. -/
theorem witness_YieldAndPeerDropAhead_bidder :
    (awaits 40 .ready).engagedServed ∧ (awaits 40 .ready).attentionOk ∧ (awaits 40 .ready).detectedRight ∧
      (awaits 40 .ready).coursesOk ∧ (awaits 40 .ready).oneEngaged ∧ (awaits 40 .ready).protected ∧
      (awaits 40 .ready).hears 1000 (ValidFrame.status 2 (shows .down 0)).bytes ∧
      ((after (.statusRecord 1000 (ValidFrame.status 2 (shows .down 0)).bytes) (awaits 40 .ready)).drive .p1).state =
        .rising ∧
      ((after (.statusRecord 1000 (ValidFrame.status 2 (shows .contact 30)).bytes) (awaits 40 .ready)).drive .p1).state =
        .bidding := by
  obtain ⟨h1, h2, h3⟩ := bid_in_order (awaits 40 .ready) rfl rfl rfl rfl (.inl rfl) rfl rfl rfl (.inr (.inl rfl))
  exact ⟨h1, h2, h3, by unfold State.coursesOk Drive.courseOk; decide, fun h => absurd h.2 (by decide),
    fun h => absurd h (by decide), heard_on_a_quiet_line _ _ rfl rfl (by decide +kernel), by decide +kernel,
    by decide +kernel⟩

/-- A bidder whose window has ended, under FORCED and HEAVY with the breaker closed: of a budget of 64 units its claim of
100 has 64, the insulator heater is full on and P1's head heater at 80 per cent. -/
def budgeted : State :=
  { awaits 40 .ready with
    view := { led with heldValues := { led.heldValues with deIce := .forced }, table := [.fresh 2 (shows .contact 30) 0] }
    chg := { course .ready false with closed := true }
    start := { (awaits 40 .ready).start with config := { Settings.default with budget := 64 } }
    heat := { (awaits 40 .ready).heat with
      level := .heavy, claim := 100, grant := 64
      insulator := { LoadState.initial true with output := .on }
      head1 := { LoadState.initial true with output := .pwm 80, onPart := true, period := some 10000000 } } }

/-- The claim of 100 stands at the entry to PREHEAT, so the grant of 64 is apportioned first, P1's head heater before the
insulator heater: 30 full on, and 34 of 40 at 85 per cent; the peer's claim then brings the grant to 32, and the 5 per cent
of 2 of 40 wait (R126, R128, R130, R131). -/
theorem test_preheat_at_a_peers_record :
    let u := after (.statusRecord 1000 (ValidFrame.status 2 { shows .down 0 with claim := 250 }).bytes) budgeted
    (u.drive .p1).state = .preheat ∧ u.heat.claim = 100 ∧ u.heat.grant = 32 ∧
      (u.heat.load (.head .p1)).output = .on ∧ (u.heat.load .insulator).output = .pwm 85 ∧
      (u.heat.load .insulator).pendingDuty = some 5 := by decide +kernel

/-- A claim that stands, with a grant that the water-fill gives, and one that has changed (R126). -/
theorem witness_LoadsTakeTheirShares_claim :
    claimOf budgeted = budgeted.heat.claim ∧
      (100, 64) ∈ waterFill 64 (100 :: budgeted.view.table.map fun e => min 250 e.record.claim) ∧
      claimOf { budgeted with heat := { budgeted.heat with claim := 99 } } ≠ 99 := by decide

/-- The same bidder in GAP. -/
def alone : State := { awaits 40 .ready with view := { led with mode := .gap, noCab := some 0 } }

/-- A demand that goes stale, a position that is lost and a stuck line, each under a bidder (R72). -/
theorem witness_bidder_is_returned :
    alone.engagedServed ∧ alone.attentionOk ∧ alone.detectedRight ∧
      ((after .noCabStale alone).drive .p1).outcome = .withheld ∧
      (awaits 40 .ready).engagedServed ∧ (awaits 40 .ready).attentionOk ∧ (awaits 40 .ready).detectedRight ∧
      Changeover.validFor { (awaits 40 .ready).chg with endAC := false, endDC := false } .ac = false ∧
      ((after (.endSwitchChange 5 false false) (awaits 40 .ready)).drive .p1).outcome = .withheld ∧
      (awaits 40 .ready).port.hold = false ∧
      (awaits 40 .ready).port.activeFrom.getD ((awaits 40 .ready).port.idleFrom + 96) + 2 * Config.ms ≤ 3000 ∧
      ((after (.lineActiveTimeout 3000) (awaits 40 .ready)).drive .p1).outcome = .withheld := by
  obtain ⟨h1, h2, h3⟩ := bid_in_order (awaits 40 .ready) rfl rfl rfl rfl (.inl rfl) rfl rfl rfl (.inr (.inl rfl))
  obtain ⟨g1, g2, g3⟩ := bid_in_order alone rfl rfl rfl rfl (.inr rfl) rfl rfl rfl (.inr (.inl rfl))
  exact ⟨g1, g2, g3, by decide +kernel, h1, h2, h3,
    by decide, by decide +kernel, rfl, by decide, by decide +kernel⟩

/-- A bid that no command touches goes on under the grounds of R72. -/
theorem witness_EndSwitchMovesThePosition_bidder :
    (waiting (.pressureValue 5 .p1 none) (awaits 40 .ready)).settled ∧
      (waiting (.pressureValue 5 .p1 none) (awaits 40 .ready)).engagedServed ∧
      ((stepped (.pressureValue 5 .p1 none) (awaits 40 .ready)).drive .p1).state = .bidding :=
  ⟨rfl, (bid_in_order _ rfl rfl rfl rfl (.inl rfl) rfl rfl rfl (.inr (.inl rfl))).1, by decide +kernel⟩

/-- A line active past 2 ms is not found idle at that moment, and is once 48 bit times have passed since it can last have
been driven (R154, R166). -/
theorem test_active_timeout_then_idle :
    (after (.lineIdle 3000) (after (.lineActiveTimeout 3000) ready)).port.hold = true ∧
      (after (.lineIdle 3001) (after (.lineActiveTimeout 3000) ready)).port.hold = false := by decide +kernel

/-- The second report over an index, a temperature, a humidity and a second count. -/
def assessed (level : IceLevel) (index : Nat) (temperature : Int) (humidity second : Nat) : Heating :=
  (after .assessmentExpiry { running with
    arc := { running.arc with second := second }
    heat := { running.heat with index := index, level := level, temperature := temperature, humidity := humidity } }).heat

/-- The boundaries of the ice levels (R120), by hand from R118. -/
theorem test_ice_level_boundaries :
    ((assessed .light 76190 0 0 0).index = 74999 ∧ (assessed .light 76190 0 0 0).level = .none) ∧
      ((assessed .light 76191 0 0 0).index = 75000 ∧ (assessed .light 76191 0 0 0).level = .light) ∧
      ((assessed .none 101587 0 0 0).index = 99999 ∧ (assessed .none 101587 0 0 0).level = .none) ∧
      ((assessed .none 101588 0 0 0).index = 100000 ∧ (assessed .none 101588 0 0 0).level = .light) ∧
      ((assessed .heavy 190476 0 0 0).index = 187499 ∧ (assessed .heavy 190476 0 0 0).level = .light) ∧
      ((assessed .heavy 190477 0 0 0).index = 187500 ∧ (assessed .heavy 190477 0 0 0).level = .heavy) ∧
      ((assessed .light 253968 0 0 0).index = 249999 ∧ (assessed .light 253968 0 0 0).level = .light) ∧
      ((assessed .light 253969 0 0 0).index = 250000 ∧ (assessed .light 253969 0 0 0).level = .heavy) := by decide +kernel

/-- The step at the upper limit (R119): a decay of 16384 against 250 arcs and 128 times 3, and against 255 arcs and 65. -/
theorem test_ice_index_limit :
    (assessed .heavy 1048575 (-128) 73 250).index = 1048575 ∧ (assessed .heavy 1048575 (-128) 73 250).saturated = false ∧
      (assessed .heavy 1048575 (-65) 71 255).index = 1048575 ∧ (assessed .heavy 1048575 (-65) 71 255).saturated = true := by
  decide +kernel

/-- ARC_BURST at ring sums of 19 and 20 (R113). -/
theorem test_arc_burst_boundary :
    CauseSet.has (after .assessmentExpiry { running with arc := { running.arc with second := 19 } }).att.latched .arcBurst =
        false ∧
      CauseSet.has (after .assessmentExpiry { running with arc := { running.arc with second := 20 } }).att.latched .arcBurst =
        true := by decide +kernel

/-- An acknowledged ARC_BURST clears at a sum below 20, and one not acknowledged stays. -/
def burst (acknowledged : Bool) : State :=
  { running with
    arc := { running.arc with second := 19 }
    att := { running.att with
      latched := Cause.bit .arcBurst, pending := if acknowledged then Cause.bit .arcBurst else 0 } }

theorem test_arc_burst_clears :
    CauseSet.has (after .assessmentExpiry (burst true)).att.latched .arcBurst = false ∧
      CauseSet.has (after .assessmentExpiry (burst false)).att.latched .arcBurst = true := by decide +kernel

/-! ## The order of the blocks under the same witnesses -/

theorem witness_SenseDisagreementIsCounted_order :
    disputed.attentionOk ∧ disputed.detectedRight ∧ disputed.engagedServed :=
  ⟨attention_in_order _ rfl, detection_in_order _ rfl, fun p h => match p, h with
    | .p1, _ => ⟨fun g => (by cases g), .ac25, rfl, rfl⟩
    | .p2, h => (by cases h)⟩

theorem witness_BidWindowAndBidTimer_order :
    ((bidder 40).oneEngaged ∧ (bidder 40).engagedServed ∧ (bidder 40).attentionOk ∧ (bidder 40).detectedRight) ∧
      reported.oneEngaged ∧ reported.engagedServed ∧ reported.attentionOk ∧ reported.detectedRight ∧
      (awaits 40 .ready).attentionOk ∧ (awaits 40 .ready).detectedRight :=
  ⟨⟨fun h => absurd h.2 (by decide), bid_in_order _ rfl rfl rfl rfl (.inl rfl) rfl rfl rfl (.inr (.inl rfl))⟩,
    fun h => absurd h.2 (by decide),
    (bid_in_order reported rfl rfl rfl rfl (.inl rfl) rfl rfl rfl (.inr (.inl rfl))).1, attention_in_order _ rfl,
    detection_in_order _ rfl, attention_in_order _ rfl, detection_in_order _ rfl⟩

/-- A class that changes to DEAD under a bidder in READY (R70): the barrier holds, with no peer in the table. -/
theorem witness_BidWindowAndBidTimer_dead_class :
    (∀ ph k l x y, (bidsAtGate ph k l x y).oneEngaged ∧
      CauseSet.has (bidsAtGate ph k l x y).att.latched .lineDead = false) ∧
      classify 0 (480 * 0 / 480) = .dead ∧ (bidsAtGate .ready 0 0 (.sys .ac25) .dead).sense.gateEnd.confirmed = .dead ∧
      (bidsAtGate .confirming 0 0 (.sys .ac25) .dead).sense.gateEnd.confirmed = .dead ∧
      admissible ((bidsAtGate .ready 0 0 (.sys .ac25) .dead).withSense
        (bidsAtGate .ready 0 0 (.sys .ac25) .dead).sense.gateEnd) .p1 = true ∧
      ((after .gateEnd (bidsAtGate .ready 0 0 (.sys .ac25) .dead)).drive .p1).state = .rising :=
  ⟨fun ph k l x y => ⟨fun h => absurd (show ready.drive2.engaged = true from h.2) (by decide), by
      show CauseSet.has 0 .lineDead = false; decide⟩, by decide, by decide, by decide, by decide, by decide +kernel⟩

theorem witness_PhasesAtAGateEnd_order :
    (∀ d ph k l x, (atGate d (course ph true) k l x).changeoverOk) ∧
      (∀ d ph k l x, (atGate d (course ph false) k l x).changeoverOk) ∧ (∀ d k l x, (atGate d steady k l x).changeoverOk) ∧
      acknowledged.changeoverOk :=
  ⟨fun d ph k l x => course_in_order _ ph true (.inr rfl), fun d ph k l x => course_in_order _ ph false (.inl rfl),
    fun _ _ _ _ => show ({ ready with chg := steady } : State).changeoverOk from
      ⟨fun _ => rfl, fun side => by cases side <;> decide, by decide, by decide, by decide, by decide⟩,
    course_in_order _ .mismatch false (.inl rfl)⟩

theorem witness_PhasesAtADemandChange_order :
    (∀ d c, d = ready.drive1 ∨ d = contact 2000 ∨ d = rising 900 → (commanded d c).oneEngaged) ∧ slipping.oneEngaged ∧
      (awaits 40 .ready).start.configState ≠ .unfrozen :=
  ⟨fun d c h => (drives_in_order (commanded d c) rfl h).2.2.1, (drives_in_order slipping rfl (.inr (.inl rfl))).2.2.1,
    by decide⟩

/-! ## The widened clauses: peers that age, level 0, and the rest -/

/-- P1 in CONTACT beside one peer. -/
def beside (e : PeerEntry) : State := { train (contact 2000) with view := { led with table := [e] } }

theorem beside_in_order (e : PeerEntry) :
    (beside e).held = false ∧ (beside e).settled ∧ (beside e).oneEngaged ∧ (beside e).engagedServed ∧ (beside e).coursesOk ∧
      (beside e).attentionOk ∧ (beside e).detectedRight ∧ (beside e).protected :=
  have h := drives_in_order (beside e) rfl (.inr (.inl rfl))
  ⟨rfl, rfl, h.2.2.1, fun p g => match p, g with
    | .p1, _ => ⟨fun g => (by cases g), .ac25, rfl, rfl⟩
    | .p2, g => (by cases g), h.1, attention_in_order _ rfl, detection_in_order _ rfl,
    fun g => absurd (show (5 : Nat) ≤ 1 from g) (by decide)⟩

/-- An entry that goes stale while it stands too close, and one that goes stale or is removed while it is in DROPPED ahead. -/
theorem witness_YieldAndPeerDropAhead_ageing :
    tableFind 2 (beside (.fresh 2 (shows .contact 100) 0)).view.table = some (.fresh 2 (shows .contact 100) 0) ∧
      ((after (.entryStale 2) (beside (.fresh 2 (shows .contact 100) 0))).drive .p1).outcome = .yielded ∧
      ((after (.entryStale 2) (beside (.fresh 2 (shows .dropped 0) 0))).drive .p1).state = .contact ∧
      ((after (.entryRemoval 2) (beside (.fresh 2 (shows .contact 100) 0))).drive .p1).state = .contact := by decide +kernel

/-- A direction under which the peer in DROPPED at 0 m no longer stands ahead, and one under which it does. -/
theorem witness_YieldAndPeerDropAhead_direction :
    parseFrame (consistFrame faster) = some (.consist .a faster) ∧ faster.direction ≠ led.heldValues.direction ∧
      dropAheadStands { beside (.fresh 2 (shows .dropped 100) 0) with
        view := { fasterView with table := [.fresh 2 (shows .dropped 100) 0] } } = true ∧
      ((after (.consistRecord 1000 (consistFrame faster)) (beside (.fresh 2 (shows .dropped 100) 0))).drive .p1).outcome =
        .protect ∧
      ((after (.consistRecord 1000 (consistFrame { asksRaise with speed := 5 }))
        (beside (.fresh 2 (shows .dropped 100) 0))).drive .p1).state = .contact := by decide +kernel

/-- A bidder in PREHEAT that must yield. -/
theorem witness_YieldAndPeerDropAhead_preheat :
    ((train (preheating 9)).drive .p1).state = .preheat ∧
      ((after (.statusRecord 1000 (ValidFrame.status 2 (shows .contact 100)).bytes)
        { train (preheating 9) with adm := { Admission.initial with bidder := some .p1, openBid := some .p1 } }).drive
          .p1).outcome = .yielded := by decide +kernel

/-- OVER over a pantograph in CONTACT, and over one in FALLING normal with outcome YIELDED (R17, R19, R145). -/
theorem witness_PhasesAtAGateEnd_level0 :
    0 < (atGate (contact 2000) steady 24 272 .dead).att.level ∧ classify 24 (480 * 272 / 480) = .over ∧
      ((after .gateEnd (atGate (contact 2000) steady 24 272 .dead)).drive .p1).state = .fallingFast ∧
      ((after .gateEnd (atGate (contact 2000) steady 24 272 .dead)).drive .p1).outcome = .protect ∧
      ((after .gateEnd (atGate { falling with outcome := .yielded } steady 24 272 .dead)).drive .p1).state = .fallingFast ∧
      ((after .gateEnd (atGate { falling with outcome := .yielded } steady 24 272 .dead)).drive .p1).outcome = .yielded := by
  decide +kernel

/-- A creep from 40 to 41, and a step down to 3800 in RISING. -/
theorem witness_LegalTransitionMovesTheAngle_creep :
    (withP1 (offRest 40)).attentionOk ∧ (withP1 (offRest 40)).detectedRight ∧
      ((after (.legalTransition 5 .p1 true) (withP1 (offRest 40))).drive .p1).state = .fallingNormal ∧
      ((after (.legalTransition 5 .p1 false) (withP1 (rising 3801))).drive .p1).outcome = .noWire ∧
      ((after (.legalTransition 5 .p1 false) (withP1 (rising 3800))).drive .p1).state = .rising :=
  ⟨attention_in_order _ rfl, detection_in_order _ rfl, by decide +kernel, by decide +kernel, by decide +kernel⟩

/-- P1 in CONTACT under a stale demand. -/
def staled : State := { beside (peer 2) with view := { led with mode := .stale, noCab := some 0 } }

theorem witness_ConsistRecordsAndSilentCabs_lost :
    staled.attentionOk ∧ staled.detectedRight ∧ staled.protected ∧ staled.view.mode = .stale ∧
      staled.view.noCab = some 0 ∧ CauseSet.has staled.start.config.enables .demandLost = true ∧
      ((after .noCabLost staled).drive .p1).state = .fallingNormal ∧ ((after .noCabLost staled).drive .p1).outcome = .protect :=
  ⟨attention_in_order _ rfl, detection_in_order _ rfl, fun g => absurd (show (5 : Nat) ≤ 1 from g) (by decide), rfl, rfl,
    by decide, by decide +kernel, by decide +kernel⟩

/-- The end of an on part under a feedback that still shows current, and a new period under one that shows none. -/
theorem witness_HeaterLoadsFollowTheirTimers_watch :
    pulsed.heat.insulator.feedback = true ∧
      ((after (.pwmOnPartEnd .insulator) pulsed).heat.load .insulator).watch = some 6300000 ∧
      ((after (.pwmPeriodExpiry .insulator) { pulsed with
        heat := { pulsed.heat with insulator := { pulsed.heat.insulator with onPart := false, feedback := false } } }).heat.load
          .insulator).watch = some 12000000 := by decide +kernel

theorem witness_DriveOrdersActOnThePantographTheyName_isolate :
    (obeying (withP1 (contact 2000))).attentionOk ∧ (obeying (withP1 (contact 2000))).detectedRight ∧
      ((after (.isolate 1000 (orderFrame .isolate 1)) (obeying (withP1 (contact 2000)))).drive .p1).state = .fallingNormal :=
  ⟨attention_in_order _ rfl, detection_in_order _ rfl, by decide +kernel⟩

/-- The priority, and the record of a pantograph that is not fitted. -/
theorem witness_priority_and_snapshot :
    ((train (preheating 9)).drive .p1).state = .preheat ∧ ((beside (peer 2)).drive .p1).state.up = true ∧
      ((beside (peer 2)).drive Panto.p1.other).state.up = false ∧ (State.reset.drive .p1).fitted = false ∧
      ((statusOfStation State.reset).panto .p1).headKind = .none ∧ (ready.drive .p1).fitted = true := by decide +kernel

end Sys2Proof.Tests
end

