-- ==== Sys2Proof/Proofs/GateClassification.lean ====
section
/-! The classification of a gate (R33): the table by its ranges of crossing counts, and the result that a gate end
records. The rows are tried from the top: a row's result is shown by its own condition and the failure of every row above. -/

namespace Sys2Proof.Machine

section Table

variable {k l : Nat}

/-- DEAD comes before every count. -/
theorem classify_dead (hl : l < 5) : classify k l = .dead := if_pos hl

/-- The counts of the two DC systems. -/
theorem classify_dcCount (hk : k ≤ 1) :
    (10 ≤ l ∧ l ≤ 21 → classify k l = .sys .dc1k5) ∧ (22 ≤ l ∧ l ≤ 41 → classify k l = .sys .dc3) ∧
      (42 ≤ l → classify k l = .over) ∧ (5 ≤ l ∧ l ≤ 9 → classify k l = .unknown) := by
  refine ⟨fun _ => ?_, fun _ => ?_, fun _ => ?_, fun _ => ?_⟩ <;>
    simp (disch := omega) only [classify, if_pos, if_neg]

/-- The counts of AC15. -/
theorem classify_ac15Count (hk : 6 ≤ k ∧ k ≤ 10) :
    (90 ≤ l ∧ l ≤ 161 → classify k l = .sys .ac15) ∧ (162 ≤ l → classify k l = .over) ∧
      (5 ≤ l ∧ l ≤ 89 → classify k l = .unknown) := by
  refine ⟨fun _ => ?_, fun _ => ?_, fun _ => ?_⟩ <;>
    simp (disch := omega) only [classify, if_pos, if_neg]

/-- The counts of AC25. -/
theorem classify_ac25Count (hk : 20 ≤ k ∧ k ≤ 28) :
    (153 ≤ l ∧ l ≤ 260 → classify k l = .sys .ac25) ∧ (261 ≤ l → classify k l = .over) ∧
      (5 ≤ l ∧ l ≤ 152 → classify k l = .unknown) := by
  refine ⟨fun _ => ?_, fun _ => ?_, fun _ => ?_⟩ <;>
    simp (disch := omega) only [classify, if_pos, if_neg]

/-- A count that is no system's is UNKNOWN at every level above DEAD. -/
theorem classify_noCount (hl : 5 ≤ l) (hk : 2 ≤ k ∧ k ≤ 5 ∨ 11 ≤ k ∧ k ≤ 19 ∨ 29 ≤ k) : classify k l = .unknown := by
  simp (disch := omega) only [classify, if_neg]

end Table

/-- The line sense unit's own handling of a gate end (R34 to R37). -/
theorem senseGateEnd_sense {s : State} (hp : s.sense.position = 480) : (senseGateEnd s).st.sense = s.sense.gateEnd := by
  have hfull : s.sense.position = Config.gateSamples := hp
  simp [senseGateEnd, hfull]

/-- No message that a gate end sends writes the line sense unit, so its own handling stands once they are all taken. -/
theorem exec_gateEnd_sense {s : State} (hs : s.held = false) (hp : s.sense.position = 480) :
    ∃ u, exec .gateEnd s = .next u ∧ u.sense = s.sense.gateEnd :=
  ⟨_, exec_up .gateEnd s hs, (run_kept (senseGateEnd s)).sense.trans (senseGateEnd_sense hp)⟩

/-- Settles O22: the table range by range of the crossing count, and the frame of the messages at a gate end. -/
theorem gatesAreClassifiedByTheTable : Obligations.GatesAreClassifiedByTheTable := by
  unfold Obligations.GatesAreClassifiedByTheTable
  refine ⟨fun k l => ⟨classify_dead, classify_dcCount, classify_ac15Count, classify_ac25Count, classify_noCount⟩,
    fun s hs hp => ?_⟩
  obtain ⟨u, hu, hsense⟩ := exec_gateEnd_sense hs hp
  have hresult : s.sense.gateEnd.newer = some (classify s.sense.crossings (s.sense.sum / 480)) := rfl
  exact ⟨u, hu, hsense ▸ hresult⟩

end Sys2Proof.Machine
end

