-- ==== Sys2Proof/Proofs/AdmissionTest.lean ====
section
/-! The admission test (R57, R67 to R70), from what its parts read: the pantographs that the station sees, the order by
rank, the ahead set, and the dead-roof barrier. -/

namespace Sys2Proof.Machine

/-! ## What the station sees (R45, R49) -/

theorem Panto.mem_both (p : Panto) : p ∈ [Panto.p1, Panto.p2] := by cases p <;> simp

theorem mem_ownPresented {s : State} {m : Presented} :
    m ∈ ownPresented s ↔ ∃ p, (s.drive p).fitted = true ∧ m = ownPanto s p := by
  simp only [ownPresented, List.mem_map, List.mem_filter, Panto.mem_both, true_and, eq_comm]

theorem PeerEntry.presumed_iff {e : PeerEntry} {p : Panto} :
    e.presumed p = true ↔ p = .p1 ∧ e.presumed1 = true ∨ p = .p2 ∧ e.presumed2 = true := by
  cases p <;> simp [PeerEntry.presumed]

theorem PeerEntry.presents_iff {e : PeerEntry} {p : Panto} :
    e.presents p = true ↔ (e.record.panto p).headKind ≠ .none ∧ (e.stale = false ∨ e.presumed p = true) := by
  simp [PeerEntry.presents]

theorem PeerEntry.mem_presented {e : PeerEntry} {m : Presented} :
    m ∈ e.presented ↔ ∃ p, e.presents p = true ∧
      m = { address := e.address, panto := p, state := (e.record.panto p).state, tag := (e.record.panto p).tag,
            position := min Config.positionMax (e.record.panto p).position } := by
  simp only [PeerEntry.presented, List.mem_map, List.mem_filter, Panto.mem_both, true_and, eq_comm]

theorem mem_allPresented {s : State} {m : Presented} :
    m ∈ allPresented s ↔ m ∈ ownPresented s ∨ ∃ e ∈ s.view.table, m ∈ e.presented := by
  simp only [allPresented, List.mem_append, List.mem_flatMap]

theorem address_of_mem_ownPresented {s : State} {m : Presented} (h : m ∈ ownPresented s) :
    m.address = s.start.address := by
  obtain ⟨p, -, rfl⟩ := mem_ownPresented.1 h
  rfl

theorem PeerEntry.address_of_mem_presented {e : PeerEntry} {m : Presented} (h : m ∈ e.presented) :
    m.address = e.address := by
  obtain ⟨p, -, rfl⟩ := PeerEntry.mem_presented.1 h
  rfl

/-- One station's pantographs are seen once each: what is seen of P1 and of P2 is told apart by its pantograph. -/
theorem nodup_presentedOfStation (q : Panto → Bool) (f : Panto → Presented) (hf : ∀ p, (f p).panto = p) :
    (([Panto.p1, Panto.p2].filter q).map f).Nodup := by
  have hinj : ∀ a b : Panto, a ≠ b → f a ≠ f b := fun a b hne he => hne (by rw [← hf a, he, hf b])
  have hboth : [Panto.p1, Panto.p2].Pairwise (· ≠ ·) := by decide
  exact (hboth.filter q).map f hinj

/-- The peer table's entries are in the order of their addresses, so no pantograph is seen in two of them. -/
theorem nodup_peersPresented {table : List PeerEntry} (hsorted : table.Pairwise fun x y => x.address < y.address) :
    (table.flatMap PeerEntry.presented).Nodup := by
  refine List.pairwise_flatMap.2 ⟨fun e _ => nodup_presentedOfStation _ _ fun _ => rfl, hsorted.imp ?_⟩
  rintro e f hlt m hm _ hn rfl
  rw [← PeerEntry.address_of_mem_presented hm, ← PeerEntry.address_of_mem_presented hn] at hlt
  exact Nat.lt_irrefl _ hlt

/-- Under the table's order no pantograph is seen twice: no peer entry has the station's own address. -/
theorem nodup_allPresented {s : State} (htable : s.tableOk) : (allPresented s).Nodup := by
  obtain ⟨hsorted, hpeers⟩ := htable
  refine List.nodup_append.2 ⟨nodup_presentedOfStation _ _ fun _ => rfl, nodup_peersPresented hsorted, ?_⟩
  rintro m hown _ hpeer rfl
  obtain ⟨e, he, hm⟩ := List.mem_flatMap.1 hpeer
  obtain ⟨-, -, hother⟩ := hpeers e he
  exact hother ((PeerEntry.address_of_mem_presented hm).symm.trans (address_of_mem_ownPresented hown))

/-! ## The order by rank (R57) -/

theorem betterRank_iff {d : Direction} {x y : Presented} :
    betterRank d x y = true ↔
      rankKey d y.position < rankKey d x.position ∨ rankKey d x.position = rankKey d y.position ∧
        (x.address < y.address ∨ x.address = y.address ∧ x.panto = .p1 ∧ y.panto = .p2) := by
  simp [betterRank, and_assoc]

theorem betterRank_asymm {d : Direction} {x y : Presented} (h : betterRank d x y = true) : betterRank d y x = false := by
  rw [← Bool.not_eq_true, betterRank_iff]
  rcases betterRank_iff.1 h with hkey | ⟨hkey, haddr | ⟨haddr, hx, hy⟩⟩
  · omega
  · omega
  · simp [hkey, haddr, hx]

theorem Panto.ne_iff {p q : Panto} : p ≠ q ↔ p = .p1 ∧ q = .p2 ∨ q = .p1 ∧ p = .p2 := by
  cases p <;> cases q <;> simp

theorem betterRank_total (d : Direction) {x y : Presented} (h : ¬(x.address = y.address ∧ x.panto = y.panto)) :
    betterRank d x y = true ∨ betterRank d y x = true := by
  simp only [betterRank_iff]
  by_cases haddr : x.address = y.address
  · have hpanto : x.panto ≠ y.panto := fun he => h ⟨haddr, he⟩
    rcases Panto.ne_iff.1 hpanto with hxy | hyx
    · simp only [haddr, hxy, and_self, or_true, and_true]
      omega
    · simp only [haddr, hyx, and_self, or_true, and_true]
      omega
  · omega

theorem betterRank_trans {d : Direction} {x y z : Presented} (hxy : betterRank d x y = true)
    (hyz : betterRank d y z = true) : betterRank d x z = true := by
  rw [betterRank_iff] at *
  rcases hxy with hkey | ⟨hkey, haddr | ⟨haddr, hx, hy⟩⟩
  · omega
  · omega
  · simp only [hy, reduceCtorEq, false_and, and_false, or_false] at hyz
    omega

/-! ## The tests (R67 to R70) -/

theorem PState.countsRaised_iff {x : PState} : x.countsRaised = true ↔ x = .preheat ∨ x = .rising ∨ x = .contact := by
  cases x <;> simp [PState.countsRaised]

theorem Phase.setForSupply_iff {x : Phase} :
    x.setForSupply = true ↔ x = .ready ∨ x = .confirming ∨ x = .steady ∨ x = .mismatch := by
  cases x <;> simp [Phase.setForSupply]

theorem barrierHolds_iff {s : State} :
    barrierHolds s = true ↔
      s.sense.confirmed ≠ .dead ∨ ∀ e ∈ s.view.table, e.record.phase = .ready ∨ e.record.phase = .confirming ∨
        e.record.phase = .steady ∨ e.record.phase = .mismatch := by
  simp [barrierHolds, Phase.setForSupply_iff]

@[simp] theorem ownPanto_tag (s : State) (p : Panto) : (ownPanto s p).tag = (s.drive p).tag := rfl

theorem Presented.same_iff {x y : Presented} : x.same y = true ↔ x.address = y.address ∧ x.panto = y.panto := by
  simp [Presented.same]

/-- The ahead set of an own pantograph with a tag (R67): every other pantograph seen of that tag that counts as raised, or
bids with a better rank. -/
theorem aheadSet_ownPanto {s : State} {p : Panto} {x : System} (htag : (s.drive p).tag = some x) :
    aheadSet s (ownPanto s p) = (allPresented s).filter fun m =>
      decide (¬(m.address = s.start.address ∧ m.panto = p) ∧ m.tag = some x ∧
        ((m.state = .preheat ∨ m.state = .rising ∨ m.state = .contact) ∨
          m.state = .bidding ∧ betterRank s.view.heldValues.direction m (ownPanto s p) = true)) := by
  refine List.filter_congr fun m _ => ?_
  rw [Bool.eq_iff_iff]
  simp only [Bool.and_eq_true, Bool.or_eq_true, Bool.not_eq_true', ← Bool.not_eq_true, decide_eq_true_eq,
    Presented.same_iff, PState.countsRaised_iff, ownPanto_tag, htag, and_assoc]
  rfl

/-- The three tests of a bidder with a tag (R70). -/
theorem admissible_iff {s : State} {p : Panto} {x : System} (htag : (s.drive p).tag = some x) :
    admissible s p = true ↔
      (aheadSet s (ownPanto s p)).length < s.start.config.raiseLimit x ∧
        (∀ m ∈ aheadSet s (ownPanto s p), s.spacing ≤ distance m (ownPanto s p)) ∧ barrierHolds s = true := by
  simp only [admissible, ownPanto_tag, htag, Bool.and_eq_true, decide_eq_true_eq, List.all_eq_true, and_assoc]

/-- Settles O25: the admission test by its three parts, the rank as a strict total order, and what is seen, entry by
entry. -/
theorem admissionTestReadsTheAheadSet : Obligations.AdmissionTestReadsTheAheadSet := by
  unfold Obligations.AdmissionTestReadsTheAheadSet
  refine ⟨?tests, fun d x y => ⟨betterRank_asymm, betterRank_total d, fun z => betterRank_trans⟩,
    fun x y => ⟨betterRank_iff, betterRank_iff⟩, fun s => ⟨fun m => ?seen, nodup_allPresented⟩⟩
  case tests =>
    rintro s p x htag ahead rfl
    rw [admissible_iff htag, aheadSet_ownPanto htag, barrierHolds_iff]
    rfl
  case seen =>
    simp only [mem_allPresented, mem_ownPresented, PeerEntry.mem_presented, PeerEntry.presents_iff,
      PeerEntry.presumed_iff, and_assoc]
    rfl

end Sys2Proof.Machine
end

