-- ==== Sys2Proof/Proofs/WaterFill.lean ====
section
/-! The water-fill (R127). The claims are sorted by insertion; the walk then ends at a common share, which is at least
its first share, since a claim granted in full below the share leaves at least that share to each claim after it. -/

namespace Sys2Proof.Machine

/-! ## The ascending order -/

theorem insertClaim_perm (c : Nat) (l : List Nat) : (insertClaim c l).Perm (c :: l) := by
  induction l with
  | nil => exact .refl _
  | cons x rest ih =>
    rw [insertClaim]
    split
    · exact .refl _
    · exact (ih.cons x).trans (.swap c x rest)

theorem sortClaims_perm (l : List Nat) : (sortClaims l).Perm l := by
  induction l with
  | nil => exact .refl _
  | cons c rest ih => exact (insertClaim_perm c _).trans (ih.cons c)

theorem pairwise_insertClaim {c : Nat} {l : List Nat} (hl : l.Pairwise (· ≤ ·)) :
    (insertClaim c l).Pairwise (· ≤ ·) := by
  induction l with
  | nil => exact List.pairwise_singleton _ c
  | cons x rest ih =>
    obtain ⟨hx, hrest⟩ := List.pairwise_cons.1 hl
    rw [insertClaim]
    split
    case isTrue hcx => exact hl.cons <| List.forall_mem_cons.2 ⟨hcx, fun y hy => Nat.le_trans hcx (hx y hy)⟩
    case isFalse hcx =>
      refine (ih hrest).cons fun y hy => ?_
      obtain rfl | hy := List.mem_cons.1 ((insertClaim_perm c rest).mem_iff.1 hy)
      · exact Nat.le_of_not_le hcx
      · exact hx y hy

theorem pairwise_sortClaims (l : List Nat) : (sortClaims l).Pairwise (· ≤ ·) := by
  induction l with
  | nil => exact .nil
  | cons c rest ih => exact pairwise_insertClaim ih

/-! ## The walk -/

theorem fillWalk_of_le {r c : Nat} {rest : List Nat} (h : c ≤ r / (rest.length + 1)) :
    fillWalk r (c :: rest) = (c, c) :: fillWalk (r - c) rest := if_pos h

theorem fillWalk_of_lt {r c : Nat} {rest : List Nat} (h : r / (rest.length + 1) < c) :
    fillWalk r (c :: rest) = (c :: rest).map fun x => (x, r / (rest.length + 1)) := if_neg (Nat.not_le.2 h)

theorem map_fst_fillWalk (r : Nat) (l : List Nat) : (fillWalk r l).map Prod.fst = l := by
  induction l generalizing r with
  | nil => rfl
  | cons c rest ih =>
    obtain h | h := Nat.lt_or_ge (r / (rest.length + 1)) c
    · simp [fillWalk_of_lt h, Function.comp_def]
    · rw [fillWalk_of_le h, List.map_cons, ih]

/-- An allocation divides `r` at a common share: each grant is its claim or the share, whichever is less, and what is
left of `r` is less than the count of the claims above the share. -/
structure DividesAt (share r : Nat) (alloc : List (Nat × Nat)) : Prop where
  grant : ∀ e ∈ alloc, e.2 = min e.1 share
  within : (alloc.map Prod.snd).sum ≤ r
  remainder : r < (alloc.map Prod.snd).sum + ((alloc.map Prod.fst).filter fun c => share < c).length

/-- A claim at or below the share, granted in full before the rest is divided. -/
theorem DividesAt.cons {share r c : Nat} {alloc : List (Nat × Nat)} (h : DividesAt share (r - c) alloc)
    (hshare : c ≤ share) (hr : c ≤ r) : DividesAt share r ((c, c) :: alloc) where
  grant := List.forall_mem_cons.2 ⟨(Nat.min_eq_left hshare).symm, h.grant⟩
  within := by
    have := h.within
    simp only [List.map_cons, List.sum_cons]
    omega
  remainder := by
    have := h.remainder
    have hbelow : ¬share < c := Nat.not_lt.2 hshare
    simp only [List.map_cons, List.sum_cons, List.filter_cons, hbelow, decide_false, Bool.false_eq_true, if_false]
    omega

theorem sum_map_share (share : Nat) (l : List Nat) :
    ((l.map fun x => (x, share)).map Prod.snd).sum = l.length * share := by
  simp only [List.map_map, Function.comp_def, List.map_const', List.sum_replicate_nat]

/-- The end of the walk: every claim left is above the share and receives it. -/
theorem dividesAt_map_share {r : Nat} {l : List Nat} (hne : 0 < l.length) (habove : ∀ c ∈ l, r / l.length < c) :
    DividesAt (r / l.length) r (l.map fun x => (x, r / l.length)) where
  grant := List.forall_mem_map.2 fun c hc => (Nat.min_eq_right (Nat.le_of_lt (habove c hc))).symm
  within := sum_map_share _ l ▸ Nat.mul_div_le r l.length
  remainder := by
    have hall : (l.filter fun c => r / l.length < c) = l := List.filter_eq_self.2 (by simpa using habove)
    have hfst : (l.map fun x => (x, r / l.length)).map Prod.fst = l := by simp [Function.comp_def]
    rw [sum_map_share, hfst, hall, ← Nat.mul_succ]
    exact Nat.lt_mul_div_succ r hne

/-- A claim at or below the share leaves at least that share to each claim after it. -/
theorem share_le_share_rest {r c n : Nat} (h : c ≤ r / (n + 1)) (hn : 0 < n) : r / (n + 1) ≤ (r - c) / n := by
  have hr : r / (n + 1) * n + r / (n + 1) ≤ r := Nat.div_mul_le_self r (n + 1)
  exact (Nat.le_div_iff_mul_le hn).2 (by omega)

/-- The walk over ascending claims that do not fit divides the remainder at a share no less than its first one. -/
theorem fillWalk_dividesAt {r : Nat} {l : List Nat} (hl : l.Pairwise (· ≤ ·)) (hr : r < l.sum) :
    ∃ share, r / l.length ≤ share ∧ DividesAt share r (fillWalk r l) := by
  induction l generalizing r with
  | nil => exact absurd hr (Nat.not_lt_zero r)
  | cons c rest ih =>
    obtain ⟨hc, hrest⟩ := List.pairwise_cons.1 hl
    obtain h | h := Nat.lt_or_ge (r / (rest.length + 1)) c
    · have habove : ∀ x ∈ c :: rest, r / (c :: rest).length < x :=
        List.forall_mem_cons.2 ⟨h, fun x hx => Nat.lt_of_lt_of_le h (hc x hx)⟩
      exact ⟨_, Nat.le_refl _, fillWalk_of_lt h ▸ dividesAt_map_share (Nat.succ_pos _) habove⟩
    · have hcr : c ≤ r := Nat.le_trans h (Nat.div_le_self r _)
      have hlt : r - c < rest.sum := by rw [List.sum_cons] at hr; omega
      have hne : 0 < rest.length := List.length_pos_iff.2 fun hnil => by simp [hnil] at hlt
      obtain ⟨share, hle, hdiv⟩ := ih hrest hlt
      have hshare : r / (rest.length + 1) ≤ share := Nat.le_trans (share_le_share_rest h hne) hle
      exact ⟨share, hshare, fillWalk_of_le h ▸ hdiv.cons (Nat.le_trans h hshare) hcr⟩

/-! ## The water-fill -/

section Fill

variable {budget : Nat} {claims : List Nat}

theorem waterFill_of_le (h : claims.sum ≤ budget) :
    waterFill budget claims = (sortClaims claims).map fun c => (c, c) := if_pos h

theorem waterFill_of_lt (h : budget < claims.sum) : waterFill budget claims = fillWalk budget (sortClaims claims) :=
  if_neg (Nat.not_le.2 h)

theorem map_fst_waterFill (budget : Nat) (claims : List Nat) :
    (waterFill budget claims).map Prod.fst = sortClaims claims := by
  obtain h | h := Nat.lt_or_ge budget claims.sum
  · rw [waterFill_of_lt h, map_fst_fillWalk]
  · simp [waterFill_of_le h, Function.comp_def]

theorem waterFill_full (h : claims.sum ≤ budget) : ∀ e ∈ waterFill budget claims, e.2 = e.1 := by
  rw [waterFill_of_le h]
  exact List.forall_mem_map.2 fun _ _ => rfl

theorem sum_waterFill_full (h : claims.sum ≤ budget) : ((waterFill budget claims).map Prod.snd).sum = claims.sum := by
  simp [waterFill_of_le h, Function.comp_def, (sortClaims_perm claims).sum_nat]

theorem waterFill_dividesAt (h : budget < claims.sum) : ∃ share, DividesAt share budget (waterFill budget claims) := by
  have hsum : budget < (sortClaims claims).sum := (sortClaims_perm claims).sum_nat ▸ h
  obtain ⟨share, -, hdiv⟩ := fillWalk_dividesAt (pairwise_sortClaims claims) hsum
  exact ⟨share, waterFill_of_lt h ▸ hdiv⟩

theorem waterFill_grant_le (budget : Nat) (claims : List Nat) : ∀ e ∈ waterFill budget claims, e.2 ≤ e.1 := by
  intro e he
  obtain h | h := Nat.lt_or_ge budget claims.sum
  · obtain ⟨share, hdiv⟩ := waterFill_dividesAt h
    exact hdiv.grant e he ▸ Nat.min_le_left _ _
  · exact Nat.le_of_eq (waterFill_full h e he)

theorem sum_waterFill_le (budget : Nat) (claims : List Nat) :
    ((waterFill budget claims).map Prod.snd).sum ≤ budget := by
  obtain h | h := Nat.lt_or_ge budget claims.sum
  · obtain ⟨share, hdiv⟩ := waterFill_dividesAt h
    exact hdiv.within
  · exact sum_waterFill_full h ▸ h

end Fill

/-- Settles O23: the sort is an ascending permutation of the claims, and the walk over it divides the budget at one
share. -/
theorem waterFillDividesTheBudget : Obligations.WaterFillDividesTheBudget := by
  unfold Obligations.WaterFillDividesTheBudget
  intro budget claims
  have hfst := map_fst_waterFill budget claims
  refine ⟨hfst ▸ sortClaims_perm claims, hfst ▸ pairwise_sortClaims claims, waterFill_grant_le budget claims,
    sum_waterFill_le budget claims, waterFill_full, fun h => ?_⟩
  obtain ⟨share, hdiv⟩ := waterFill_dividesAt h
  have hremainder := hdiv.remainder
  rw [hfst, ((sortClaims_perm claims).filter _).length_eq] at hremainder
  exact ⟨share, hdiv.grant, hremainder⟩

end Sys2Proof.Machine
end
